-- ==== Sys2Proof/Word.lean ====
section
/-!
DEFINITION. The widths of the machine: 8-bit bytes and registers, 16-bit addresses and program counter (spec/00_scope.md R3).
-/

namespace Sys2Proof

/-- A byte: a general register, the status register, a memory cell, an opcode or an operand byte (R3). -/
abbrev Byte := BitVec 8

/-- A 16-bit address, the program counter included (R3, R12, R40). -/
abbrev Address := BitVec 16

end Sys2Proof
end

