-- ==== Sys2Proof/Machine/Alu.lean ====
section
/-!
DEFINITION. The sub-block `alu_6502`: its six operations (spec/43_register_ops.md R152), each wrapping at its own width
and producing no carry, overflow or flag (R153, R154), and the byte-order helpers of 16-bit values (spec/30_encoding.md
R72, spec/20_memory.md R43, R44).
-/

namespace Sys2Proof.Machine

/-- `PASS8`: the byte itself. -/
def pass8 (v : Byte) : Byte := v

/-- `INC8`: `(v + 1) mod 256`. -/
def inc8 (v : Byte) : Byte := v + 1

/-- `ADD8`: `(u + v) mod 256`. -/
def add8 (u v : Byte) : Byte := u + v

/-- `zext_16(b)`: the byte as a 16-bit value with bits 15 to 8 zero (spec/00_scope.md section 7). -/
def zext16 (b : Byte) : Address := b.setWidth 16

/-- `ADD16`: `(w + zext_16(v)) mod 65536`. -/
def add16 (w : Address) (v : Byte) : Address := w + zext16 v

/-- `INC16`: `(w + 1) mod 65536`. -/
def inc16 (w : Address) : Address := w + 1

/-- `ADDLEN`: `(w + length - 1) mod 65536`, for a length 1 to 3. -/
def addLen (w : Address) (length : Nat) : Address := w + BitVec.ofNat 16 (length - 1)

/-- `hi : lo`, that is `hi * 256 + lo`. -/
def word16 (hi lo : Byte) : Address := hi ++ lo

/-- `v[7:0]`. -/
def lowByte (v : Address) : Byte := v.extractLsb' 0 8

/-- `v[15:8]`. -/
def highByte (v : Address) : Byte := v.extractLsb' 8 8

end Sys2Proof.Machine
end

