-- ==== Sys2Proof/Syntax.lean ====
section
/-!
DEFINITION. The instructions as syntax: the mnemonics, the addressing modes, the operand forms, the row type of the
opcode table, and `Instr`, one constructor for each of the 18 rows of spec/opcode_table.json (spec/30_encoding.md R74).
-/

namespace Sys2Proof

/-- The five mnemonics the hardware gives a meaning to (R1). -/
inductive Mnemonic where
  | lda | sta | tax | inx | brk
  deriving DecidableEq, Repr

/-- The ten addressing modes, in the order of their codes 0 to 9 (R73). -/
inductive Mode where
  | immediate | zeroPage | zeroPageX | zeroPageY | absolute | absoluteX | absoluteY | indirectX | indirectY
  | noneAddressing
  deriving DecidableEq, Repr

/-- An operand as its mode forms it from the bytes after the opcode: `d8` of format OP_D8 or `a16` of format OP_A16
(R71, R72). `zeroPageY` belongs to the resolver although no row uses it (R113, R123). -/
inductive Operand where
  | immediate (d8 : Byte)
  | zeroPage (d8 : Byte)
  | zeroPageX (d8 : Byte)
  | zeroPageY (d8 : Byte)
  | absolute (a16 : Address)
  | absoluteX (a16 : Address)
  | absoluteY (a16 : Address)
  | indirectX (d8 : Byte)
  | indirectY (d8 : Byte)
  | noneAddressing
  deriving DecidableEq, Repr

/-- The mode an operand is of. -/
def Operand.mode : Operand → Mode
  | .immediate _ => .immediate
  | .zeroPage _ => .zeroPage
  | .zeroPageX _ => .zeroPageX
  | .zeroPageY _ => .zeroPageY
  | .absolute _ => .absolute
  | .absoluteX _ => .absoluteX
  | .absoluteY _ => .absoluteY
  | .indirectX _ => .indirectX
  | .indirectY _ => .indirectY
  | .noneAddressing => .noneAddressing

/-- A row of an opcode table: the source's tuple of R80. A row whose mnemonic has no handler holds `none`; the table of
this hardware has no such row (R77, R173). -/
structure Row where
  opcode : Byte
  mnemonic : Option Mnemonic
  mode : Mode
  length : Nat
  deriving DecidableEq, Repr

/-- The instructions, one constructor for each row of the opcode table, with the row's operand field (R74). -/
inductive Instr where
  /-- 0xA9 d8 (R131) -/
  | ldaImmediate (d8 : Byte)
  /-- 0xA5 d8 (R132) -/
  | ldaZeroPage (d8 : Byte)
  /-- 0xB5 d8 (R133) -/
  | ldaZeroPageX (d8 : Byte)
  /-- 0xAD lo hi (R134) -/
  | ldaAbsolute (a16 : Address)
  /-- 0xBD lo hi (R135) -/
  | ldaAbsoluteX (a16 : Address)
  /-- 0xB9 lo hi (R136) -/
  | ldaAbsoluteY (a16 : Address)
  /-- 0xA1 d8 (R137) -/
  | ldaIndirectX (d8 : Byte)
  /-- 0xB1 d8 (R138) -/
  | ldaIndirectY (d8 : Byte)
  /-- 0x85 d8 (R140) -/
  | staZeroPage (d8 : Byte)
  /-- 0x95 d8 (R141) -/
  | staZeroPageX (d8 : Byte)
  /-- 0x8D lo hi (R142) -/
  | staAbsolute (a16 : Address)
  /-- 0x9D lo hi (R143) -/
  | staAbsoluteX (a16 : Address)
  /-- 0x99 lo hi (R144) -/
  | staAbsoluteY (a16 : Address)
  /-- 0x81 d8 (R145) -/
  | staIndirectX (d8 : Byte)
  /-- 0x91 d8 (R146) -/
  | staIndirectY (d8 : Byte)
  /-- 0xAA (R150) -/
  | tax
  /-- 0xE8 (R151) -/
  | inx
  /-- 0x00 (R160) -/
  | brk
  deriving DecidableEq, Repr

/-- The mnemonic of an instruction. -/
def Instr.mnemonic : Instr → Mnemonic
  | .ldaImmediate _ => .lda
  | .ldaZeroPage _ => .lda
  | .ldaZeroPageX _ => .lda
  | .ldaAbsolute _ => .lda
  | .ldaAbsoluteX _ => .lda
  | .ldaAbsoluteY _ => .lda
  | .ldaIndirectX _ => .lda
  | .ldaIndirectY _ => .lda
  | .staZeroPage _ => .sta
  | .staZeroPageX _ => .sta
  | .staAbsolute _ => .sta
  | .staAbsoluteX _ => .sta
  | .staAbsoluteY _ => .sta
  | .staIndirectX _ => .sta
  | .staIndirectY _ => .sta
  | .tax => .tax
  | .inx => .inx
  | .brk => .brk

/-- The operand of an instruction, in its mode. -/
def Instr.operand : Instr → Operand
  | .ldaImmediate d8 => .immediate d8
  | .ldaZeroPage d8 => .zeroPage d8
  | .ldaZeroPageX d8 => .zeroPageX d8
  | .ldaAbsolute a16 => .absolute a16
  | .ldaAbsoluteX a16 => .absoluteX a16
  | .ldaAbsoluteY a16 => .absoluteY a16
  | .ldaIndirectX d8 => .indirectX d8
  | .ldaIndirectY d8 => .indirectY d8
  | .staZeroPage d8 => .zeroPage d8
  | .staZeroPageX d8 => .zeroPageX d8
  | .staAbsolute a16 => .absolute a16
  | .staAbsoluteX a16 => .absoluteX a16
  | .staAbsoluteY a16 => .absoluteY a16
  | .staIndirectX d8 => .indirectX d8
  | .staIndirectY d8 => .indirectY d8
  | .tax => .noneAddressing
  | .inx => .noneAddressing
  | .brk => .noneAddressing

end Sys2Proof
end

