-- ==== Sys2Proof/Machine/Formats.lean ====
section
/-!
DEFINITION. The formats of spec/30_encoding.md section 2 (R71 to R73): how long an instruction of each mode is, and the
code numbers of modes and mnemonics that the fault record holds (spec/10_state.md R19).
-/

namespace Sys2Proof

/-- The number of operand bytes of a mode: its format is IMPL, OP_D8 or OP_A16 (R71, R73). -/
def Mode.operandBytes : Mode → Nat
  | .immediate => 1
  | .zeroPage => 1
  | .zeroPageX => 1
  | .zeroPageY => 1
  | .absolute => 2
  | .absoluteX => 2
  | .absoluteY => 2
  | .indirectX => 1
  | .indirectY => 1
  | .noneAddressing => 0

/-- The length of an instruction of a mode, the opcode byte included (R73). -/
def Mode.length (m : Mode) : Nat :=
  1 + m.operandBytes

/-- The length of an instruction, which its mode fixes (R73, R78). -/
def Instr.length (i : Instr) : Nat :=
  i.operand.mode.length

/-- The code of a mode in `fault.mode` (R73, last column). -/
def Mode.code : Mode → BitVec 4
  | .immediate => 0
  | .zeroPage => 1
  | .zeroPageX => 2
  | .zeroPageY => 3
  | .absolute => 4
  | .absoluteX => 5
  | .absoluteY => 6
  | .indirectX => 7
  | .indirectY => 8
  | .noneAddressing => 9

/-- The code of a mnemonic in `fault.mnemonic` (R19). -/
def Mnemonic.code : Mnemonic → BitVec 3
  | .lda => 0
  | .sta => 1
  | .tax => 2
  | .inx => 3
  | .brk => 4

end Sys2Proof
end

