-- ==== Sys2Proof/Config.lean ====
section
/-!
DEFINITION. The configuration of the block (spec/00_scope.md R4, R9): its fixed constants, and its one open parameter,
which has no body here, so that whatever is proved holds for every value of it. The opcode table, which R9 counts to the
configuration too, is `Sys2Proof.opcodeTable` in Decode.lean.
-/

namespace Sys2Proof

/-- `MEM_SIZE` of R4: the number of memory cells. -/
def Config.memSize : Nat := 65536

/-- `RESET_VECTOR` of R4: the address of the vector's low byte; its high byte is at the next address, 0xFFFD. -/
def Config.resetVector : Address := 0xFFFC#16

/-- `LOAD_ADDRESS` of R4: an open 16-bit parameter. DESIGN CHOICE (log entry 1): a constant without a body. -/
opaque Config.loadAddress : Address

end Sys2Proof
end

