-- ==== Sys2Proof/Machine/State.lean ====
section
/-!
DEFINITION. The state of the machine, all of it and as plain data (spec/10_state.md), its values after power-on and
after reset (spec/70_reset_and_hazards.md R200, R201), and the reasons a step or a host operation can stop.
-/

namespace Sys2Proof.Machine

/-- Memory: the cells that do not hold what an unlisted address reads as, by rising address (R17; `Memory.wf`). -/
abbrev Memory := List Host.Cell

/-- `run_state` (R18). -/
inductive RunState where
  /-- A step can be taken. -/
  | ready
  /-- BRK was decoded; no step until reset. -/
  | halted
  /-- A fatal condition was met; no step and no reset. -/
  | faulted
  deriving DecidableEq, Repr

/-- `fault.kind` (R19, R174). -/
inductive FaultKind where
  | none
  | unrecognizedOpcode
  | unsupportedAddressingMode
  deriving DecidableEq, Repr

/-- The fault record, field by field (R19). `mode` and `mnemonic` hold the codes of spec/30_encoding.md R73 and R19, and
mean something only for the kind `unsupportedAddressingMode`. -/
structure FaultRecord where
  kind : FaultKind
  opcode : Byte
  pc : Address
  mode : BitVec 4
  mnemonic : BitVec 3
  deriving DecidableEq, Repr

/-- The record with every field 0, as power-on leaves it (R19, R200). -/
def FaultRecord.clear : FaultRecord :=
  { kind := .none, opcode := 0, pc := 0, mode := 0, mnemonic := 0 }

/-- Every piece of state the spec gives the machine (spec/10_state.md section 1). -/
structure State where
  /-- `A`, the accumulator (R10). -/
  a : Byte
  /-- `X` (R10). -/
  x : Byte
  /-- `Y` (R10). -/
  y : Byte
  /-- `P`, the status register: bit 7 N, bit 1 Z, the other six reserved storage (R13, R16). -/
  p : Byte
  /-- The program counter (R12). -/
  pc : Address
  /-- The latch of action 3 (R20, R94): written in every step that gets that far, before action 5 reads it. -/
  pcBefore : Address
  /-- `M` (R17). -/
  mem : Memory
  /-- `run_state` (R18). -/
  runState : RunState
  /-- The fault record (R19). -/
  fault : FaultRecord
  deriving DecidableEq, Repr

/-- The machine after power-on (R200): every register, the pc and every memory cell zero, run state Ready, the fault
record clear. The latch has no specified value; it is zero here (DESIGN CHOICE, log entry 2). -/
def State.powerOn : State :=
  { a := 0, x := 0, y := 0, p := 0, pc := 0, pcBefore := 0, mem := [], runState := .ready, fault := .clear }

/-- The machine right after reset: `reset` taken on the machine that power-on leaves (R201, R203, vector V124). The
registers and P are 0x00 and the pc holds the reset vector, which is 0x0000 in zero-filled memory; that the operation of
R201 gives exactly this state is `Sys2Proof.Laws.resetRequest_powerOn`. -/
def State.reset : State :=
  { a := 0, x := 0, y := 0, p := 0, pc := 0, pcBefore := 0, mem := [], runState := .ready, fault := .clear }

/-- Why a step answers no next state. The two fatal conditions carry the state they leave, since the host may read all of
it (R163, R177); the other two are the states that have no step at all (R90). -/
inductive Fault where
  /-- UnrecognizedOpcode (R171): raised by a step whose opcode byte has no row. `left` is the state it leaves, Faulted,
  with the record filled (R175, R176). Safe: the machine stops here too. -/
  | unrecognizedOpcode (left : State)
  /-- UnsupportedAddressingMode (R172): raised where LDA or STA asks for the address of NoneAddressing; no row of the
  table leads here. `left` is the state it leaves. Safe: the machine stops here too. -/
  | unsupportedAddressingMode (left : State)
  /-- A step was asked for in Halted (R90, U10): stuck, answered by `step`. Safe: only the lack of a step is claimed. -/
  | noStepHalted
  /-- A step was asked for in Faulted (R90, R177, U10): stuck, answered by `step`. Safe, for the same reason. -/
  | noStepFaulted
  deriving DecidableEq, Repr

/-- Why a request is not taken. No step of the machine answers one of these. -/
inductive Refusal where
  /-- An instruction without a meaning in the model; no arm of `exec` answers it. Safe: it claims nothing. -/
  | notModelled (mnemonic : String)
  /-- A reset was requested in Faulted (R177, R203, U11): answered by `resetRequest`. Safe: the spec gives it no move. -/
  | resetWhileFaulted
  /-- A load longer than the space above the load address (R205, U4): answered by `loadAt`. Safe: the block defines no
  behaviour for it. -/
  | loadTooLarge
  deriving DecidableEq, Repr

/-- What a step, a meaning or a host operation answers. -/
abbrev Answer := Host.Outcome State Fault Refusal

/-- The state a fault leaves for the host to read, where it leaves one (R176, R190). -/
def Fault.left : Fault → Option State
  | .unrecognizedOpcode s => some s
  | .unsupportedAddressingMode s => some s
  | .noStepHalted => none
  | .noStepFaulted => none

end Sys2Proof.Machine
end

