-- ==== Sys2Proof/Machine/Ops.lean ====
section
/-!
DEFINITION. The named operations over memory and registers: the memory interface (spec/20_memory.md R41 to R45), the
writes of single fields of the state, the actions of the step that every instruction shares (spec/40_fetch_decode_execute.md
R92, R94, R96), and the entry into Faulted (spec/60_exceptions.md R175). There is no return from a fault (R181).
-/

namespace Sys2Proof.Machine

/-! ### Memory -/

/-- What a cell that nothing has written reads as: 0x00 (R50; spec/70_reset_and_hazards.md R200). -/
def Memory.unlisted : Byte := 0

/-- The canonical form: addresses strictly rising and inside the address space, and no cell listed that holds what an
unlisted one reads as. -/
abbrev Memory.wf (m : Memory) : Prop :=
  m.Pairwise (fun c d => c.1 < d.1) ∧ ∀ c ∈ m, c.1 < Config.memSize ∧ c.2 ≠ Memory.unlisted

/-- The byte listed for an address number, or the unlisted one. -/
def Memory.lookup (k : Nat) : Memory → Byte
  | [] => Memory.unlisted
  | c :: m => if c.1 = k then c.2 else Memory.lookup k m

/-- The list without the entries of an address number. -/
def Memory.erase (k : Nat) (m : Memory) : Memory :=
  m.filter (fun c => c.1 != k)

/-- The list with an entry put before the first one of a higher address. -/
def Memory.insert (k : Nat) (v : Byte) : Memory → Memory
  | [] => [(k, v)]
  | c :: m => if k < c.1 then (k, v) :: c :: m else c :: Memory.insert k v m

/-- `MemRead(a, 1)`: never fails, changes nothing (R41). -/
def Memory.read (m : Memory) (a : Address) : Byte :=
  Memory.lookup a.toNat m

/-- `MemWrite(a, 1, v)`: never fails, changes one cell (R42). Writing what an unlisted cell reads as removes the entry. -/
def Memory.write (m : Memory) (a : Address) (v : Byte) : Memory :=
  if v = Memory.unlisted then Memory.erase a.toNat m
  else Memory.insert a.toNat v (Memory.erase a.toNat m)

/-- `MemRead(a, 2)`, the source's `read16`: low byte first, the second address modulo 65536 (R43, R45). -/
def Memory.read16 (m : Memory) (a : Address) : Address :=
  word16 (m.read (inc16 a)) (m.read a)

/-- `MemWrite(a, 2, v)`, the source's `write16`: low byte first, the second address modulo 65536 (R44, R45). -/
def Memory.write16 (m : Memory) (a v : Address) : Memory :=
  (m.write a (lowByte v)).write (inc16 a) (highByte v)

/-- The bytes at `n` ascending addresses, modulo 65536 (R70). -/
def Memory.bytesAt (m : Memory) (a : Address) : Nat → List Byte
  | 0 => []
  | n + 1 => m.read a :: m.bytesAt (inc16 a) n

/-- Byte writes at ascending addresses, the first byte at `a` (spec/70_reset_and_hazards.md R204). -/
def Memory.writeBytes (m : Memory) (a : Address) : List Byte → Memory
  | [] => m
  | b :: bs => (m.write a b).writeBytes (inc16 a) bs

/-! ### Writes of one field. No operation of the machine writes `Y` but power-on and reset (R11). -/

/-- `A <- v` -/
def State.setA (s : State) (v : Byte) : State := { s with a := v }

/-- `X <- v` -/
def State.setX (s : State) (v : Byte) : State := { s with x := v }

/-- `P <- v` -/
def State.setP (s : State) (v : Byte) : State := { s with p := v }

/-- `pc <- v` -/
def State.setPc (s : State) (v : Address) : State := { s with pc := v }

/-- `pc_before <- v` -/
def State.setPcBefore (s : State) (v : Address) : State := { s with pcBefore := v }

/-- Memory becomes `m`. -/
def State.setMem (s : State) (m : Memory) : State := { s with mem := m }

/-- `run_state <- r` -/
def State.setRunState (s : State) (r : RunState) : State := { s with runState := r }

/-- The fault record becomes `r`. -/
def State.setFault (s : State) (r : FaultRecord) : State := { s with fault := r }

/-! ### The shared actions of a step -/

/-- The increment of action 1 (R92). -/
def State.advancePastOpcode (s : State) : State :=
  s.setPc (inc16 s.pc)

/-- Action 3: the latch takes the pc (R94). -/
def State.latch (s : State) : State :=
  s.setPcBefore s.pc

/-- Actions 1 and 3 as they stand around a successful lookup: what a handler starts from (R92, R94). -/
def State.beginHandler (s : State) : State :=
  s.advancePastOpcode.latch

/-- Action 5: the pc skips the operand bytes, if it still equals the latch (R96). -/
def State.advancePastOperand (s : State) (length : Nat) : State :=
  if s.pc = s.pcBefore then s.setPc (addLen s.pc length) else s

/-! ### Entering Faulted -/

/-- `raise K(info)`: run state Faulted, the record filled, the step ended with no next state (R170, R175). -/
def raiseFault (report : State → Fault) (record : FaultRecord) (s : State) : Answer :=
  .fault (report ((s.setRunState .faulted).setFault record))

/-- `raise UnrecognizedOpcode(opcode, pc)`: the kind, the opcode byte and the address it was fetched from are written
into the record, and nothing else (R171, R174). -/
def raiseUnrecognizedOpcode (opcode : Byte) (fetchPc : Address) (s : State) : Answer :=
  raiseFault .unrecognizedOpcode { s.fault with kind := .unrecognizedOpcode, opcode := opcode, pc := fetchPc } s

/-- `raise UnsupportedAddressingMode(mode, mnemonic, opcode, pc)` (R119, R172, R174). -/
def raiseUnsupportedMode (m : Mode) (mn : Mnemonic) (opcode : Byte) (fetchPc : Address) (s : State) : Answer :=
  raiseFault .unsupportedAddressingMode
    { kind := .unsupportedAddressingMode, opcode := opcode, pc := fetchPc, mode := m.code, mnemonic := mn.code } s

/-- The code of `fault.kind` (R174). -/
def FaultKind.code : FaultKind → BitVec 2
  | .none => 0
  | .unrecognizedOpcode => 1
  | .unsupportedAddressingMode => 2

end Sys2Proof.Machine
end

