-- ==== Sys2Proof/Machine/Flags.lean ====
section
/-!
DEFINITION. The sub-block `status_flags_logic`: the two working flags of P and the one computation that writes them
(spec/10_state.md R13 to R16).
-/

namespace Sys2Proof.Machine

/-- `SetZN(v)` on the status byte `p`, mask-and-or: Z is whether `v` is 0, N is bit 7 of `v`, the reserved bits stay
(R15). -/
def setZN (p v : Byte) : Byte :=
  (p &&& 0x7D#8) ||| (if v = 0 then 0x02#8 else 0x00#8) ||| (if v.getLsbD 7 then 0x80#8 else 0x00#8)

/-- `P.Z`, bit 1 (R13). -/
def State.z (s : State) : Bool := s.p.getLsbD 1

/-- `P.N`, bit 7 (R13). -/
def State.n (s : State) : Bool := s.p.getLsbD 7

/-- `SetZN(v)` (R15). -/
def State.setFlags (s : State) (v : Byte) : State := s.setP (setZN s.p v)

end Sys2Proof.Machine
end

