-- ==== Sys2Proof/Machine/Operands.lean ====
section
/-!
DEFINITION. The operand forms: the address computation of every addressing mode (spec/41_addressing_modes.md R110 to
R119, with the wrap law R120), and the resolver `EA(mode)` itself (R121). In this file, as there, the state is that of
action 4 of the step: `pc` is the address of the byte after the opcode.
-/

namespace Sys2Proof.Machine

/-- A zero-page address: the byte with a high byte of 0x00 (R111). -/
def zeroPageAddress (d8 : Byte) : Address := zext16 d8

/-- The indexed zero-page address: the sum wraps modulo 256 (R112, R113). -/
def zeroPageIndexed (d8 index : Byte) : Address := zeroPageAddress (add8 d8 index)

/-- The indexed 16-bit address: the sum wraps modulo 65536 (R115, R116). -/
def absoluteIndexed (a16 : Address) (index : Byte) : Address := add16 a16 index

/-- The two-byte pointer at a zero-page address; its high byte is taken from page zero too (R117, R118, R120). -/
def zeroPagePointer (m : Memory) (ptr : Byte) : Address :=
  word16 (m.read (zeroPageAddress (inc8 ptr))) (m.read (zeroPageAddress ptr))

/-- Indexed indirect: the index is added to the pointer's address (R117). -/
def indirectXAddress (m : Memory) (d8 x : Byte) : Address := zeroPagePointer m (add8 d8 x)

/-- Indirect indexed: the index is added to the pointer read (R118). -/
def indirectYAddress (m : Memory) (d8 y : Byte) : Address := absoluteIndexed (zeroPagePointer m d8) y

/-- The effective address of an operand; none for NoneAddressing, which has none (R110 to R119). -/
def operandAddress (o : Operand) (s : State) : Option Address :=
  match o with
  | .immediate _ => some s.pc
  | .zeroPage d8 => some (zeroPageAddress d8)
  | .zeroPageX d8 => some (zeroPageIndexed d8 s.x)
  | .zeroPageY d8 => some (zeroPageIndexed d8 s.y)
  | .absolute a16 => some a16
  | .absoluteX a16 => some (absoluteIndexed a16 s.x)
  | .absoluteY a16 => some (absoluteIndexed a16 s.y)
  | .indirectX d8 => some (indirectXAddress s.mem d8 s.x)
  | .indirectY d8 => some (indirectYAddress s.mem d8 s.y)
  | .noneAddressing => none

/-- The byte a load takes: the instruction's own data byte for Immediate, else the byte at the effective address
(R110, R130). That `d8` is what stands at the effective address of a fetched Immediate is log entry 7. -/
def operandValue (o : Operand) (s : State) : Option Byte :=
  match o with
  | .immediate d8 => some d8
  | o => (operandAddress o s).map s.mem.read

/-- The operand of a mode, read from the bytes at the pc (R110 to R119; spec/30_encoding.md R72). -/
def readOperand (m : Mode) (s : State) : Operand :=
  match m with
  | .immediate => .immediate (s.mem.read s.pc)
  | .zeroPage => .zeroPage (s.mem.read s.pc)
  | .zeroPageX => .zeroPageX (s.mem.read s.pc)
  | .zeroPageY => .zeroPageY (s.mem.read s.pc)
  | .absolute => .absolute (s.mem.read16 s.pc)
  | .absoluteX => .absoluteX (s.mem.read16 s.pc)
  | .absoluteY => .absoluteY (s.mem.read16 s.pc)
  | .indirectX => .indirectX (s.mem.read s.pc)
  | .indirectY => .indirectY (s.mem.read s.pc)
  | .noneAddressing => .noneAddressing

/-- `EA(mode)`: the source's AddressingModeResolver, a function of the pc, the registers and memory that writes nothing;
none where it must raise UnsupportedAddressingMode (R119, R121). -/
def effectiveAddress (m : Mode) (s : State) : Option Address :=
  operandAddress (readOperand m s) s

end Sys2Proof.Machine
end

