-- ==== Sys2Proof/Machine/Load.lean ====
section
/-!
DEFINITION. LDA in its eight forms (spec/42_load_store.md R130 to R138). A meaning is entered with the pc at the opcode,
and holds the whole step of its rule: the pc leaves it at the next instruction.
-/

namespace Sys2Proof.Machine

/-- The handler of the load-accumulator family on the byte read: `A <- v`, `SetZN(v)` (R130). -/
def State.loadA (s : State) (v : Byte) : State :=
  (s.setA (pass8 v)).setFlags v

/-- The whole step of an LDA form (R91, R130). The opcode byte is used in a fault record alone. -/
def loadAccumulator (opcode : Byte) (o : Operand) (s : State) : Answer :=
  match operandValue o s.beginHandler with
  | some v => .next ((s.beginHandler.loadA v).advancePastOperand o.mode.length)
  | none => raiseUnsupportedMode o.mode .lda opcode s.pc s.beginHandler

/-- LDA #$nn (R131) -/
def execLdaImmediate (d8 : Byte) (s : State) : Answer := loadAccumulator 0xA9 (.immediate d8) s

/-- LDA $nn (R132) -/
def execLdaZeroPage (d8 : Byte) (s : State) : Answer := loadAccumulator 0xA5 (.zeroPage d8) s

/-- LDA $nn,X (R133) -/
def execLdaZeroPageX (d8 : Byte) (s : State) : Answer := loadAccumulator 0xB5 (.zeroPageX d8) s

/-- LDA $nnnn (R134) -/
def execLdaAbsolute (a16 : Address) (s : State) : Answer := loadAccumulator 0xAD (.absolute a16) s

/-- LDA $nnnn,X (R135) -/
def execLdaAbsoluteX (a16 : Address) (s : State) : Answer := loadAccumulator 0xBD (.absoluteX a16) s

/-- LDA $nnnn,Y (R136) -/
def execLdaAbsoluteY (a16 : Address) (s : State) : Answer := loadAccumulator 0xB9 (.absoluteY a16) s

/-- LDA ($nn,X) (R137) -/
def execLdaIndirectX (d8 : Byte) (s : State) : Answer := loadAccumulator 0xA1 (.indirectX d8) s

/-- LDA ($nn),Y (R138) -/
def execLdaIndirectY (d8 : Byte) (s : State) : Answer := loadAccumulator 0xB1 (.indirectY d8) s

end Sys2Proof.Machine
end

