-- ==== Sys2Proof/Machine/Register.lean ====
section
/-!
DEFINITION. TAX and INX (spec/43_register_ops.md R150, R151). A meaning is entered with the pc at the opcode, and holds
the whole step of its rule.
-/

namespace Sys2Proof.Machine

/-- `X <- v`, then `SetZN` from the new `X` (R150, R151). -/
def State.loadX (s : State) (v : Byte) : State :=
  (s.setX v).setFlags v

/-- The handler of TAX (R150). -/
def State.transferAToX (s : State) : State := s.loadX (pass8 s.a)

/-- The handler of INX (R151). -/
def State.incrementX (s : State) : State := s.loadX (inc8 s.x)

/-- TAX (R150) -/
def execTax (s : State) : Answer :=
  .next (s.beginHandler.transferAToX.advancePastOperand Mode.noneAddressing.length)

/-- INX (R151) -/
def execInx (s : State) : Answer :=
  .next (s.beginHandler.incrementX.advancePastOperand Mode.noneAddressing.length)

end Sys2Proof.Machine
end

