-- ==== Sys2Proof/Machine/Store.lean ====
section
/-!
DEFINITION. STA in its seven forms (spec/42_load_store.md R139 to R146). A meaning is entered with the pc at the opcode,
and holds the whole step of its rule. The address is complete before the write (spec/20_memory.md R56).
-/

namespace Sys2Proof.Machine

/-- The handler of the store-accumulator family at an address: `M[addr] <- A`, no flag (R139). -/
def State.storeA (s : State) (addr : Address) : State :=
  s.setMem (s.mem.write addr (pass8 s.a))

/-- The whole step of an STA form (R91, R139). The opcode byte is used in a fault record alone. -/
def storeAccumulator (opcode : Byte) (o : Operand) (s : State) : Answer :=
  match operandAddress o s.beginHandler with
  | some addr => .next ((s.beginHandler.storeA addr).advancePastOperand o.mode.length)
  | none => raiseUnsupportedMode o.mode .sta opcode s.pc s.beginHandler

/-- STA $nn (R140) -/
def execStaZeroPage (d8 : Byte) (s : State) : Answer := storeAccumulator 0x85 (.zeroPage d8) s

/-- STA $nn,X (R141) -/
def execStaZeroPageX (d8 : Byte) (s : State) : Answer := storeAccumulator 0x95 (.zeroPageX d8) s

/-- STA $nnnn (R142) -/
def execStaAbsolute (a16 : Address) (s : State) : Answer := storeAccumulator 0x8D (.absolute a16) s

/-- STA $nnnn,X (R143) -/
def execStaAbsoluteX (a16 : Address) (s : State) : Answer := storeAccumulator 0x9D (.absoluteX a16) s

/-- STA $nnnn,Y (R144) -/
def execStaAbsoluteY (a16 : Address) (s : State) : Answer := storeAccumulator 0x99 (.absoluteY a16) s

/-- STA ($nn,X) (R145) -/
def execStaIndirectX (d8 : Byte) (s : State) : Answer := storeAccumulator 0x81 (.indirectX d8) s

/-- STA ($nn),Y (R146) -/
def execStaIndirectY (d8 : Byte) (s : State) : Answer := storeAccumulator 0x91 (.indirectY d8) s

end Sys2Proof.Machine
end

