-- ==== Sys2Proof/Machine/System.lean ====
section
/-!
DEFINITION. BRK (spec/44_system.md R160), the one system instruction (R161). It is a halt, not a trap (R162).
-/

namespace Sys2Proof.Machine

/-- BRK: the pc is past the opcode, the run state is Halted, and action 5 is not performed (R91, R160). -/
def execBrk (s : State) : Answer :=
  .next (s.beginHandler.setRunState .halted)

end Sys2Proof.Machine
end

