-- ==== Sys2Proof/Machine/Dispatch.lean ====
section
/-!
DEFINITION. The dispatch on the instruction (spec/40_fetch_decode_execute.md R95): one arm for each constructor.
-/

namespace Sys2Proof.Machine

/-- The meaning of each instruction, entered with the pc at its opcode byte. -/
def exec (i : Instr) (s : State) : Host.Outcome State Fault Refusal :=
  match i with
  | .ldaImmediate d8 => Sys2Proof.Machine.execLdaImmediate d8 s
  | .ldaZeroPage d8 => Sys2Proof.Machine.execLdaZeroPage d8 s
  | .ldaZeroPageX d8 => Sys2Proof.Machine.execLdaZeroPageX d8 s
  | .ldaAbsolute a16 => Sys2Proof.Machine.execLdaAbsolute a16 s
  | .ldaAbsoluteX a16 => Sys2Proof.Machine.execLdaAbsoluteX a16 s
  | .ldaAbsoluteY a16 => Sys2Proof.Machine.execLdaAbsoluteY a16 s
  | .ldaIndirectX d8 => Sys2Proof.Machine.execLdaIndirectX d8 s
  | .ldaIndirectY d8 => Sys2Proof.Machine.execLdaIndirectY d8 s
  | .staZeroPage d8 => Sys2Proof.Machine.execStaZeroPage d8 s
  | .staZeroPageX d8 => Sys2Proof.Machine.execStaZeroPageX d8 s
  | .staAbsolute a16 => Sys2Proof.Machine.execStaAbsolute a16 s
  | .staAbsoluteX a16 => Sys2Proof.Machine.execStaAbsoluteX a16 s
  | .staAbsoluteY a16 => Sys2Proof.Machine.execStaAbsoluteY a16 s
  | .staIndirectX d8 => Sys2Proof.Machine.execStaIndirectX d8 s
  | .staIndirectY d8 => Sys2Proof.Machine.execStaIndirectY d8 s
  | .tax => Sys2Proof.Machine.execTax s
  | .inx => Sys2Proof.Machine.execInx s
  | .brk => Sys2Proof.Machine.execBrk s

end Sys2Proof.Machine
end

