-- ==== Sys2Proof/WellFormed.lean ====
section
/-!
DEFINITION. Which rows an opcode table may hold and which instructions are well formed. Operand bytes are unconstrained
(spec/30_encoding.md R79), so an `Instr` is checked for its mnemonic and mode only, and its type leaves room for the
legal forms alone; the checks that can fail are those on a table row (R73, R123) and on a table (R74, R80).
-/

namespace Sys2Proof

/-- Which modes a mnemonic has rows for: LDA every mode but ZeroPage,Y and NoneAddressing, STA also not Immediate, the
others NoneAddressing alone (spec/41_addressing_modes.md R123, spec/30_encoding.md R74). -/
def Mnemonic.admits : Mnemonic → Mode → Bool
  | .lda, m => m != .zeroPageY && m != .noneAddressing
  | .sta, m => m != .immediate && m != .zeroPageY && m != .noneAddressing
  | .tax, m => m == .noneAddressing
  | .inx, m => m == .noneAddressing
  | .brk, m => m == .noneAddressing

/-- A row is well formed when its mnemonic has a handler and admits its mode, and its length is its mode's (R73, R77). -/
def Row.wellFormed (r : Row) : Bool :=
  (match r.mnemonic with
    | some mn => mn.admits r.mode
    | none => false) && r.length == r.mode.length

/-- A table is well formed when its rows are, and no two rows share an opcode byte (R75). -/
def tableWellFormed (table : List Row) : Bool :=
  table.all Row.wellFormed && decide ((table.map Row.opcode).Nodup)

/-- An instruction is well formed when its mnemonic admits the mode of its operand. No operand value is illegal (R79). -/
def Instr.wellFormed (i : Instr) : Bool :=
  i.mnemonic.admits i.operand.mode

end Sys2Proof
end

