-- ==== Sys2Proof/Decode.lean ====
section
/-!
DEFINITION. The instruction decoder (spec/30_encoding.md): the constant opcode table of R74, the lookup of R75 and R80,
the assembly of the operand bytes (R71, R72), decoding as a total function on bytes, and the encoder.
-/

namespace Sys2Proof

/-- The opcode table: exactly the 18 rows of R74, in the order they stand there. -/
def opcodeTable : List Row :=
  [ ⟨0x00, some .brk, .noneAddressing, 1⟩,
    ⟨0x81, some .sta, .indirectX, 2⟩,
    ⟨0x85, some .sta, .zeroPage, 2⟩,
    ⟨0x8D, some .sta, .absolute, 3⟩,
    ⟨0x91, some .sta, .indirectY, 2⟩,
    ⟨0x95, some .sta, .zeroPageX, 2⟩,
    ⟨0x99, some .sta, .absoluteY, 3⟩,
    ⟨0x9D, some .sta, .absoluteX, 3⟩,
    ⟨0xA1, some .lda, .indirectX, 2⟩,
    ⟨0xA5, some .lda, .zeroPage, 2⟩,
    ⟨0xA9, some .lda, .immediate, 2⟩,
    ⟨0xAA, some .tax, .noneAddressing, 1⟩,
    ⟨0xAD, some .lda, .absolute, 3⟩,
    ⟨0xB1, some .lda, .indirectY, 2⟩,
    ⟨0xB5, some .lda, .zeroPageX, 2⟩,
    ⟨0xB9, some .lda, .absoluteY, 3⟩,
    ⟨0xBD, some .lda, .absoluteX, 3⟩,
    ⟨0xE8, some .inx, .noneAddressing, 1⟩ ]

/-- Looks an opcode byte up in a table: the row, or none (R80). The opcode byte alone takes part (R75). -/
def lookupRow (table : List Row) (op : Byte) : Option Row :=
  table.find? (fun r => r.opcode == op)

/-- The lookup of R75, in the table of this hardware. -/
def lookupOpcode (op : Byte) : Option Row :=
  lookupRow opcodeTable op

/-- Takes the operand bytes of a mode off a list of bytes, `a16` low byte first (R71, R72); none when bytes lack. -/
def takeOperand (m : Mode) (bytes : List Byte) : Option (Operand × List Byte) :=
  match m, bytes with
  | .immediate, d8 :: rest => some (.immediate d8, rest)
  | .zeroPage, d8 :: rest => some (.zeroPage d8, rest)
  | .zeroPageX, d8 :: rest => some (.zeroPageX d8, rest)
  | .zeroPageY, d8 :: rest => some (.zeroPageY d8, rest)
  | .absolute, lo :: hi :: rest => some (.absolute (Machine.word16 hi lo), rest)
  | .absoluteX, lo :: hi :: rest => some (.absoluteX (Machine.word16 hi lo), rest)
  | .absoluteY, lo :: hi :: rest => some (.absoluteY (Machine.word16 hi lo), rest)
  | .indirectX, d8 :: rest => some (.indirectX d8, rest)
  | .indirectY, d8 :: rest => some (.indirectY d8, rest)
  | .noneAddressing, rest => some (.noneAddressing, rest)
  | _, _ => none

/-- The instruction of a mnemonic and an operand; none where the mnemonic has no row in the operand's mode (R74). -/
def assemble (mn : Mnemonic) (o : Operand) : Option Instr :=
  match mn, o with
  | .lda, .immediate d8 => some (.ldaImmediate d8)
  | .lda, .zeroPage d8 => some (.ldaZeroPage d8)
  | .lda, .zeroPageX d8 => some (.ldaZeroPageX d8)
  | .lda, .absolute a16 => some (.ldaAbsolute a16)
  | .lda, .absoluteX a16 => some (.ldaAbsoluteX a16)
  | .lda, .absoluteY a16 => some (.ldaAbsoluteY a16)
  | .lda, .indirectX d8 => some (.ldaIndirectX d8)
  | .lda, .indirectY d8 => some (.ldaIndirectY d8)
  | .sta, .zeroPage d8 => some (.staZeroPage d8)
  | .sta, .zeroPageX d8 => some (.staZeroPageX d8)
  | .sta, .absolute a16 => some (.staAbsolute a16)
  | .sta, .absoluteX a16 => some (.staAbsoluteX a16)
  | .sta, .absoluteY a16 => some (.staAbsoluteY a16)
  | .sta, .indirectX d8 => some (.staIndirectX d8)
  | .sta, .indirectY d8 => some (.staIndirectY d8)
  | .tax, .noneAddressing => some .tax
  | .inx, .noneAddressing => some .inx
  | .brk, .noneAddressing => some .brk
  | _, _ => none

/-- Why bytes decode to no instruction. -/
inductive DecodeError where
  /-- There is no opcode byte at all. -/
  | noBytes
  /-- The opcode byte has no row in the table (R76). -/
  | unrecognizedOpcode (op : Byte)
  /-- The row's operand bytes are not all there; a fetch, which reads as many bytes as the row says, never meets this. -/
  | truncated (op : Byte)
  /-- The row stands for no instruction of this hardware; the table of R74 has no such row (R77, R173). -/
  | noHandler (op : Byte)
  deriving DecidableEq, Repr

/-- Decodes the first instruction of a list of bytes, and gives the bytes after it. Total: every opcode byte without a
row is rejected by name (R76). -/
def decode : List Byte → Except DecodeError (Instr × List Byte)
  | [] => .error .noBytes
  | op :: bytes =>
    match lookupOpcode op with
    | none => .error (.unrecognizedOpcode op)
    | some row =>
      match takeOperand row.mode bytes with
      | none => .error (.truncated op)
      | some (o, rest) =>
        match row.mnemonic.bind (fun mn => assemble mn o) with
        | none => .error (.noHandler op)
        | some i => .ok (i, rest)

/-- The opcode byte of each instruction, written from the encoding column of R74. -/
def Instr.opcode : Instr → Byte
  | .ldaImmediate _ => 0b10101001
  | .ldaZeroPage _ => 0b10100101
  | .ldaZeroPageX _ => 0b10110101
  | .ldaAbsolute _ => 0b10101101
  | .ldaAbsoluteX _ => 0b10111101
  | .ldaAbsoluteY _ => 0b10111001
  | .ldaIndirectX _ => 0b10100001
  | .ldaIndirectY _ => 0b10110001
  | .staZeroPage _ => 0b10000101
  | .staZeroPageX _ => 0b10010101
  | .staAbsolute _ => 0b10001101
  | .staAbsoluteX _ => 0b10011101
  | .staAbsoluteY _ => 0b10011001
  | .staIndirectX _ => 0b10000001
  | .staIndirectY _ => 0b10010001
  | .tax => 0b10101010
  | .inx => 0b11101000
  | .brk => 0b00000000

/-- The operand bytes as they stand after the opcode, the low byte of `a16` first (R71). -/
def Operand.bytes : Operand → List Byte
  | .immediate d8 => [d8]
  | .zeroPage d8 => [d8]
  | .zeroPageX d8 => [d8]
  | .zeroPageY d8 => [d8]
  | .absolute a16 => [Machine.lowByte a16, Machine.highByte a16]
  | .absoluteX a16 => [Machine.lowByte a16, Machine.highByte a16]
  | .absoluteY a16 => [Machine.lowByte a16, Machine.highByte a16]
  | .indirectX d8 => [d8]
  | .indirectY d8 => [d8]
  | .noneAddressing => []

/-- The bytes of an instruction at ascending addresses, the opcode first (R70, R71). -/
def encode (i : Instr) : List Byte :=
  i.opcode :: i.operand.bytes

/-- The three bytes, the longest instruction's, of a number whose bit 0 is bit 0 of the first byte; bits from `nbits` up
are read as zero. -/
def tableWordBytes (nbits w : Nat) : List Byte :=
  let v := w % 2 ^ nbits
  [BitVec.ofNat 8 v, BitVec.ofNat 8 (v / 256), BitVec.ofNat 8 (v / 65536)]

/-- What `decode` reads from an instruction whose bits are `w`, numbered as spec/opcode_table.json numbers them. -/
def decodeTableWord (nbits w : Nat) : Option Instr :=
  match decode (tableWordBytes nbits w) with
  | .ok (i, _) => some i
  | .error _ => none

end Sys2Proof
end

