-- ==== Sys2Proof/Machine/Fetch.lean ====
section
/-!
DEFINITION. Fetching: the opcode byte at the pc, its row, and the operand bytes the row says (spec/40_fetch_decode_execute.md
R92, R93; spec/20_memory.md R56, R59), and placing an instruction where the next step fetches.
-/

namespace Sys2Proof.Machine

/-- The opcode byte of the next instruction (R92). -/
def fetchOpcode (s : State) : Byte :=
  s.mem.read s.pc

/-- The instruction at the pc: of an opcode byte without a row nothing more is read; of one with a row, as many bytes as
the row's length (R59, R78, R93). -/
def fetch (s : State) : Except DecodeError Instr :=
  match lookupOpcode (fetchOpcode s) with
  | none => .error (.unrecognizedOpcode (fetchOpcode s))
  | some row =>
    match decode (s.mem.bytesAt s.pc row.length) with
    | .ok (i, _) => .ok i
    | .error e => .error e

/-- The end of a step that found no instruction: the pc is past the opcode byte, and UnrecognizedOpcode is raised with
the byte and the address it was fetched from (R93, R171, R173, R176). -/
def unrecognizedAtPc (s : State) : Answer :=
  raiseUnrecognizedOpcode (fetchOpcode s) s.pc s.advancePastOpcode

/-- The state with the bytes of a table word at the pc and the run state Ready, which a step needs (R90). -/
def placeTableWord (s : State) (nbits w : Nat) : State :=
  (s.setMem (s.mem.writeBytes s.pc (tableWordBytes nbits w))).setRunState .ready

end Sys2Proof.Machine
end

