-- ==== Sys2Proof/Machine/Step.lean ====
section
/-!
DEFINITION. One step of the machine: one whole instruction, in Ready alone (spec/40_fetch_decode_execute.md R90, R91).
-/

namespace Sys2Proof.Machine

/-- One step. Halted and Faulted have none (R90); in Ready the instruction at the pc is executed, or its opcode byte is
unrecognized (R91). That this is R91's algorithm, action by action, is a statement about `Algorithm.lean`. -/
def step (s : State) : Host.Outcome State Fault Refusal :=
  match s.runState with
  | .halted => .fault .noStepHalted
  | .faulted => .fault .noStepFaulted
  | .ready =>
    match fetch s with
    | .ok i => exec i s
    | .error _ => unrecognizedAtPc s

/-- The state with an instruction, given as its table word, where the next step fetches (log entry 11). -/
def State.withFetchWord (s : State) (nbits w : Nat) : State :=
  placeTableWord s nbits w

end Sys2Proof.Machine
end

