-- ==== Sys2Proof/Machine/Algorithm.lean ====
section
/-!
DEFINITION. The step algorithm as the spec writes it (spec/40_fetch_decode_execute.md R91): five actions, a table looked
up by the opcode byte, and handlers that ask the resolver for their address while the pc is past the opcode. The table is
an argument, so that a malformed row has the meaning the spec gives it (spec/60_exceptions.md R172, R173). `step` decodes
first and dispatches on the instruction; that the two agree on the table of this hardware is a statement for the provers.
-/

namespace Sys2Proof.Machine

/-- Actions 4 and 5 for a row, entered after the latch; `op` and `fetchPc` are kept for the fault record (R91). -/
def runRow (row : Row) (op : Byte) (fetchPc : Address) (s : State) : Answer :=
  match row.mnemonic with
  | some .lda =>
    match effectiveAddress row.mode s with
    | some addr => .next ((s.loadA (s.mem.read addr)).advancePastOperand row.length)
    | none => raiseUnsupportedMode row.mode .lda op fetchPc s
  | some .sta =>
    match effectiveAddress row.mode s with
    | some addr => .next ((s.storeA addr).advancePastOperand row.length)
    | none => raiseUnsupportedMode row.mode .sta op fetchPc s
  | some .tax => .next (s.transferAToX.advancePastOperand row.length)
  | some .inx => .next (s.incrementX.advancePastOperand row.length)
  | some .brk => .next (s.setRunState .halted)
  | none => raiseUnrecognizedOpcode op fetchPc s

/-- `Step()` of R91 with a table as its argument. -/
def stepWith (table : List Row) (s : State) : Answer :=
  match s.runState with
  | .halted => .fault .noStepHalted
  | .faulted => .fault .noStepFaulted
  | .ready =>
    let op := s.mem.read s.pc
    match lookupRow table op with
    | none => raiseUnrecognizedOpcode op s.pc s.advancePastOpcode
    | some row => runRow row op s.pc s.advancePastOpcode.latch

end Sys2Proof.Machine
end

