-- ==== Sys2Proof/Machine/HostInterface.lean ====
section
/-!
DEFINITION. What the host can do to the block between steps (spec/70_reset_and_hazards.md R200 to R206, R214 to R216,
R222; spec/40_fetch_decode_execute.md R98).
-/

namespace Sys2Proof.Machine

/-- `Reset()`: taken from Ready and Halted; clears A, X, Y and all of P, loads the pc from the reset vector, and writes
no memory (R201, R202). It leaves the fault record as it is, and the latch too (log entry 2). In Faulted it is not taken
(R177, R203). -/
def resetRequest (s : State) : Answer :=
  match s.runState with
  | .faulted => .refused .resetWhileFaulted
  | _ =>
    .next { s with a := 0, x := 0, y := 0, p := 0, pc := s.mem.read16 Config.resetVector, runState := .ready }

/-- `Load(program)` at a load address: the program bytes at ascending addresses, then the vector (R204, R206). A program
that does not fit below the top of memory is refused (R205). -/
def loadAt (loadAddress : Address) (program : List Byte) (s : State) : Answer :=
  if program.length ≤ Config.memSize - loadAddress.toNat then
    .next (s.setMem ((s.mem.writeBytes loadAddress program).write16 Config.resetVector loadAddress))
  else .refused .loadTooLarge

/-- `Load(program)` at the block's own `LOAD_ADDRESS` (R4, R204). -/
def load (program : List Byte) (s : State) : Answer :=
  loadAt Config.loadAddress program s

/-- A host memory write: one cell, in any run state (R214). -/
def hostWrite (a : Address) (v : Byte) (s : State) : Answer :=
  .next (s.setMem (s.mem.write a v))

/-- A host memory read: no effect (R214). -/
def hostRead (a : Address) (s : State) : Byte :=
  s.mem.read a

/-- The host's operations that can change the block (R215). `run` is the repeated `step` of R98; see `run` below. -/
inductive HostOp where
  | powerOn
  | load (program : List Byte)
  | reset
  | step
  | memoryWrite (a : Address) (v : Byte)
  deriving DecidableEq, Repr

/-- The effect of a host operation (R215). -/
def hostOp (op : HostOp) (s : State) : Answer :=
  match op with
  | .powerOn => .next State.powerOn
  | .load program => Sys2Proof.Machine.load program s
  | .reset => resetRequest s
  | .step => Sys2Proof.Machine.step s
  | .memoryWrite a v => hostWrite a v s

/-- The state an answer leaves: the next state, or the Faulted state of a fatal condition. -/
def stateLeft : Answer → Option State
  | .next s => some s
  | .fault f => f.left
  | .refused _ => none

/-- `Run()`, cut off after at most `n` steps: steps are taken while the run state is Ready (R98). The spec's `Run()` ends
in `t` when some `n` gives a `t` that is not Ready, and does not end when none does (R222, log entry 13). -/
def run : Nat → State → State
  | 0, s => s
  | n + 1, s =>
    match s.runState with
    | .ready =>
      match stateLeft (step s) with
      | some t => run n t
      | none => s
    | .halted => s
    | .faulted => s

/-- The output ports that show the state (R216); `h_rdata` is `hostRead`. -/
structure Ports where
  regA : Byte
  regX : Byte
  regY : Byte
  status : Byte
  pc : Address
  halted : Bool
  faulted : Bool
  faultKind : BitVec 2
  faultOpcode : Byte
  faultPc : Address
  faultMode : BitVec 4
  faultMnemonic : BitVec 3
  deriving DecidableEq, Repr

/-- What the output ports show (R216). -/
def State.ports (s : State) : Ports :=
  { regA := s.a, regX := s.x, regY := s.y, status := s.p, pc := s.pc,
    halted := s.runState == .halted, faulted := s.runState == .faulted,
    faultKind := s.fault.kind.code, faultOpcode := s.fault.opcode, faultPc := s.fault.pc,
    faultMode := s.fault.mode, faultMnemonic := s.fault.mnemonic }

end Sys2Proof.Machine
end

