-- ==== Sys2Proof/Safety.lean ====
section
/-!
DEFINITION. The terms of claims: the invariant of the machine's states (spec/10_state.md R16, R19, R24), which states
the host can bring the block to (spec/70_reset_and_hazards.md R215), and how a run ends (R222).
-/

namespace Sys2Proof.Machine

/-- A status byte that a reachable state can hold: no flag, Z alone, or N alone (R16, R24). -/
abbrev LegalStatus (p : Byte) : Prop :=
  p = 0x00 ∨ p = 0x02 ∨ p = 0x80

/-- The fault record is clear while the run state is not Faulted (R19). -/
abbrev FaultRecordInv (s : State) : Prop :=
  s.runState ≠ .faulted → s.fault = .clear

/-- The invariant of the machine: memory is canonical, Y is zero and P legal (R24), and the record is clear unless the
block is Faulted (R19). -/
abbrev State.Inv (s : State) : Prop :=
  s.mem.wf ∧ s.y = 0 ∧ LegalStatus s.p ∧ FaultRecordInv s

/-- The states the host's operations can bring the block to from power-on (R24, R215). A fatal condition answers no next
state; the state it leaves is reached all the same. -/
inductive Reachable : State → Prop where
  | powerOn : Reachable State.powerOn
  | host {s t : State} (op : HostOp) (hs : Reachable s) (ht : stateLeft (hostOp op s) = some t) : Reachable t

/-- A run from `s` ends in `t` after at most `n` steps: `t` is the first state that is not Ready (R222). -/
def RunEnds (s : State) (n : Nat) (t : State) : Prop :=
  run n s = t ∧ t.runState ≠ .ready

/-- A run ends well: in Halted (R222). A run that ends in Faulted went wrong. -/
def RunHalts (s : State) (n : Nat) (t : State) : Prop :=
  run n s = t ∧ t.runState = .halted

end Sys2Proof.Machine
end

