-- ==== Sys2Proof/Certificates/Slice0/Obligations.lean ====
section
/-!
DEFINITION. The statements for the provers. Each docstring names the rule of spec/ it formalises. In the statements about
one instruction the state is entered with the pc at the opcode byte; `pcBefore` is the latch of action 3 (R20, R94).
-/

open Sys2Proof Sys2Proof.Machine

/-- R200: what power-on leaves, from whatever state the block was in. That pc and run_state take these values is marked by the spec as its own inference from the source's "all zero". -/
def Obligations.PowerOnLeavesEverythingZero : Prop :=
  ∀ s : State, ∃ t : State, hostOp .powerOn s = .next t ∧ t.a = 0x00 ∧ t.x = 0x00 ∧ t.y = 0x00 ∧ t.p = 0x00 ∧
    t.pc = 0x0000 ∧ (∀ addr : Address, t.mem.read addr = 0x00) ∧ t.runState = .ready ∧
    t.fault = { kind := .none, opcode := 0, pc := 0, mode := 0, mnemonic := 0 }

/-- The values of spec/70_reset_and_hazards.md R200 and R201 in `State.reset`, which is that reset taken on the machine power-on leaves (vector V124, log entry 10). Nothing is said of the latch, whose value there is the model's choice (log entry 2). -/
def Obligations.ResetStateHoldsTheResetValues : Prop :=
  State.reset.a = 0x00 ∧ State.reset.x = 0x00 ∧ State.reset.y = 0x00 ∧ State.reset.p = 0x00 ∧
    State.reset.pc = word16 (State.reset.mem.read 0xFFFD) (State.reset.mem.read 0xFFFC) ∧ State.reset.pc = 0x0000 ∧
    (∀ addr : Address, State.reset.mem.read addr = 0x00) ∧ State.reset.runState = .ready ∧
    State.reset.fault = FaultRecord.clear ∧ hostOp .reset State.powerOn = .next State.reset

/-- R201: reset from Ready and from Halted; memory and the fault record are left as they are. What exactly is cleared is the spec's own decision D15. Nothing is said of the latch (log entry 2). -/
def Obligations.ResetRequestClearsRegistersAndLoadsVector : Prop :=
  ∀ s : State, s.runState ≠ .faulted → ∃ t : State, hostOp .reset s = .next t ∧
    t = { s with
      a := 0x00, x := 0x00, y := 0x00, p := 0x00, pc := word16 (s.mem.read 0xFFFD) (s.mem.read 0xFFFC),
      runState := .ready, pcBefore := t.pcBefore }

/-- R15: the two flags after `SetZN` and the six other bits. That both flags are never set together, and the mask 0x7D that keeps the other bits, are each marked in R15 as derived by the spec. -/
def Obligations.SetZNWritesZeroAndNegativeOnly : Prop :=
  ∀ p v : Byte,
    setZN p v = (p &&& 0x7D#8) ||| (if v = 0 then 0x02#8 else 0#8) ||| (if v.getLsbD 7 then 0x80#8 else 0#8) ∧
    (setZN p v).getLsbD 1 = decide (v = 0) ∧ (setZN p v).getLsbD 7 = v.getLsbD 7 ∧
    (∀ i : Nat, i ≠ 1 → i ≠ 7 → (setZN p v).getLsbD i = p.getLsbD i) ∧
    ¬((setZN p v).getLsbD 1 = true ∧ (setZN p v).getLsbD 7 = true)

/-- R14: LDA, TAX and INX recompute the flags from the register they wrote; STA and BRK leave P alone. -/
def Obligations.FlagsFollowTheRegisterResult : Prop :=
  ∀ (i : Instr) (s t : State), exec i s = .next t →
    (i.mnemonic = .lda → t.p = setZN s.p t.a) ∧
    (i.mnemonic = .tax ∨ i.mnemonic = .inx → t.p = setZN s.p t.x) ∧
    (i.mnemonic = .sta ∨ i.mnemonic = .brk → t.p = s.p)

/-- R58, at every address and for every list of cells. That 0xFFFF is among the addresses rests on R45, which the spec marks as its own decision D6 (log entry 9). -/
def Obligations.Write16ThenRead16RoundTrips : Prop :=
  ∀ (m : Memory) (a v : Address),
    (m.write16 a v).read16 a = v ∧ (m.write16 a v).read a = v.extractLsb' 0 8 ∧
    (m.write16 a v).read (a + 1) = v.extractLsb' 8 8

/-- R43, R44: `read16` as a number, and `write16` as its two byte writes. That the second address is modulo 65536, so 0x0000 after 0xFFFF, rests on R45, which the spec marks as its own decision D6 (log entry 9). -/
def Obligations.SixteenBitAccessesAreLittleEndian : Prop :=
  ∀ (m : Memory) (a v : Address),
    (m.read16 a).toNat = (m.read (a + 1)).toNat * 256 + (m.read a).toNat ∧
    m.write16 a v = (m.write a (v.extractLsb' 0 8)).write (a + 1) (v.extractLsb' 8 8)

/-- R42 and R214: a host memory write, in any run state, changes its one cell and nothing else, and a read gives it back (R41). -/
def Obligations.HostWriteChangesOneCell : Prop :=
  ∀ (s : State) (a : Address) (v : Byte), ∃ t : State, hostOp (.memoryWrite a v) s = .next t ∧
    t = { s with mem := t.mem } ∧ hostRead a t = v ∧ ∀ b : Address, b ≠ a → hostRead b t = hostRead b s

/-- spec/30_encoding.md R70 to R75: no bit of an encoding is dropped, for every instruction and every operand value. -/
def Obligations.DecodingAnEncodingGivesItBack : Prop :=
  ∀ (i : Instr) (rest : List Byte), i.wellFormed = true → decode (encode i ++ rest) = .ok (i, rest)

/-- spec/30_encoding.md R74, R75: each word has one meaning; what decodes to an instruction is that instruction's encoding. -/
def Obligations.EveryDecodedWordIsItsEncoding : Prop :=
  ∀ (bytes rest : List Byte) (i : Instr), decode bytes = .ok (i, rest) → bytes = encode i ++ rest

/-- R76: the 18 legal bytes, written out as the rule does, have a row and every other byte is rejected by name. The step's fault is `UnrecognizedOpcodeFaultsPrecisely`. -/
def Obligations.OpcodesOutsideTheTableAreIllegal : Prop :=
  ∀ (op : Byte) (bytes : List Byte),
    (op ∈ [0x00#8, 0x81#8, 0x85#8, 0x8D#8, 0x91#8, 0x95#8, 0x99#8, 0x9D#8, 0xA1#8, 0xA5#8, 0xA9#8, 0xAA#8, 0xAD#8, 0xB1#8,
      0xB5#8, 0xB9#8, 0xBD#8, 0xE8#8] →
      (lookupOpcode op).isSome ∧ ∀ d e : Byte, ∃ i rest, decode (op :: d :: e :: bytes) = .ok (i, rest)) ∧
    (op ∉ [0x00#8, 0x81#8, 0x85#8, 0x8D#8, 0x91#8, 0x95#8, 0x99#8, 0x9D#8, 0xA1#8, 0xA5#8, 0xA9#8, 0xAA#8, 0xAD#8, 0xB1#8,
      0xB5#8, 0xB9#8, 0xBD#8, 0xE8#8] →
      lookupOpcode op = none ∧ decode (op :: bytes) = .error (.unrecognizedOpcode op))

/-- Words written out from the encoding column of spec/30_encoding.md R74 and the forms of R81, one for each family. -/
def Obligations.SpecWordsDecodeAsWritten : Prop :=
  decode [0b10101001, 0x05] = .ok (.ldaImmediate 0x05, []) ∧
    decode [0b10111101, 0x00, 0x02] = .ok (.ldaAbsoluteX 0x0200, []) ∧
    decode [0b10001101, 0x00, 0x02] = .ok (.staAbsolute 0x0200, []) ∧
    decode [0b10010001, 0x20] = .ok (.staIndirectY 0x20, []) ∧
    decode [0b10101010] = .ok (.tax, []) ∧ decode [0b11101000] = .ok (.inx, []) ∧
    decode [0b00000000] = .ok (.brk, [])

/-- spec/40_fetch_decode_execute.md R91 to R95: a step at a Ready state runs the instruction that the bytes at the pc decode to; `exec` holds the whole step, the advance of the pc included. -/
def Obligations.StepRunsTheDecodedInstruction : Prop :=
  ∀ (s : State) (i : Instr) (rest : List Byte), s.runState = .ready → i.wellFormed = true →
    decode [s.mem.read s.pc, s.mem.read (s.pc + 1), s.mem.read (s.pc + 2)] = .ok (i, rest) → step s = exec i s

/-- R91: `step`, which decodes first and dispatches on the instruction, is the spec's algorithm in five actions with its resolver and handlers, on the table of this hardware. -/
def Obligations.StepIsTheSpecsStepAlgorithm : Prop :=
  ∀ s : State, step s = stepWith opcodeTable s

/-- R119, R172, R173: with a table given as an argument, LDA or STA on NoneAddressing raises UnsupportedAddressingMode, a row without handler raises UnrecognizedOpcode; with the table of this hardware UnsupportedAddressingMode never occurs. R172's "cannot occur" and R173 are marked by the spec as its own derivation and decisions (D2, D25; log entry 12). -/
def Obligations.MalformedRowsRaiseTheirFaults : Prop :=
  (∀ (table : List Row) (s : State) (row : Row) (mn : Mnemonic), s.runState = .ready →
      lookupRow table (s.mem.read s.pc) = some row → row.mode = .noneAddressing →
      row.mnemonic = some mn → mn = .lda ∨ mn = .sta →
      stepWith table s = .fault (.unsupportedAddressingMode { s with
        pc := s.pc + 1, pcBefore := s.pc + 1, runState := .faulted,
        fault := { kind := .unsupportedAddressingMode, opcode := s.mem.read s.pc, pc := s.pc,
                   mode := 9, mnemonic := if mn = .lda then 0 else 1 } })) ∧
    (∀ (table : List Row) (s : State) (row : Row), s.runState = .ready →
      lookupRow table (s.mem.read s.pc) = some row → row.mnemonic = none →
      ∃ t : State, stepWith table s = .fault (.unrecognizedOpcode t) ∧ t.runState = .faulted ∧
        t.fault.kind = .unrecognizedOpcode ∧ t.fault.opcode = s.mem.read s.pc ∧ t.fault.pc = s.pc) ∧
    (∀ s t : State, step s ≠ .fault (.unsupportedAddressingMode t))

/-- R171: the state a step leaves at an illegal opcode, and that nothing else raises it. That the address recorded is the one fetched from is the spec's own reading, decision D9; nothing is said of the record's mode and mnemonic (log entry 12). The fault carries the state left (log entry 3). -/
def Obligations.UnrecognizedOpcodeFaultsPrecisely : Prop :=
  (∀ s : State, s.runState = .ready →
      s.mem.read s.pc ∉ [0x00#8, 0x81#8, 0x85#8, 0x8D#8, 0x91#8, 0x95#8, 0x99#8, 0x9D#8, 0xA1#8, 0xA5#8, 0xA9#8, 0xAA#8, 0xAD#8, 0xB1#8,
      0xB5#8, 0xB9#8, 0xBD#8, 0xE8#8] →
      ∃ t : State, step s = .fault (.unrecognizedOpcode t) ∧
        t = { s with pc := s.pc + 1, runState := .faulted, fault := t.fault } ∧
        t.fault.kind = .unrecognizedOpcode ∧ t.fault.opcode = s.mem.read s.pc ∧ t.fault.pc = s.pc) ∧
    (∀ s t : State, step s = .fault (.unrecognizedOpcode t) →
      s.mem.read s.pc ∉ [0x00#8, 0x81#8, 0x85#8, 0x8D#8, 0x91#8, 0x95#8, 0x99#8, 0x9D#8, 0xA1#8, 0xA5#8, 0xA9#8, 0xAA#8, 0xAD#8, 0xB1#8,
      0xB5#8, 0xB9#8, 0xBD#8, 0xE8#8])

/-- R175, R176: what a fatal condition of either kind leaves, for a table given as an argument, so that the kind this hardware never raises is covered too. That the pc has moved on is the spec's derivation and decision D10. The fault carries the state left (log entry 3). -/
def Obligations.FaultEntryIsPreciseForBothKinds : Prop :=
  ∀ (table : List Row) (s t : State) (f : Fault), stepWith table s = .fault f → f.left = some t →
    t = { s with pc := s.pc + 1, pcBefore := t.pcBefore, runState := .faulted, fault := t.fault } ∧
    t.fault.kind ≠ .none ∧ t.fault.opcode = s.mem.read s.pc ∧ t.fault.pc = s.pc ∧
    (f = .unrecognizedOpcode t ∧ t.fault.kind = .unrecognizedOpcode ∨
      f = .unsupportedAddressingMode t ∧ t.fault.kind = .unsupportedAddressingMode)

/-- R90: a step exists exactly in Ready, and straight after power-on. That Halted and Faulted have no step is marked by the spec as its own decision D7. -/
def Obligations.NoStepOutsideReady : Prop :=
  ∀ s : State,
    (s.runState = .halted ∨ s.runState = .faulted → stateLeft (step s) = none) ∧
    (s.runState = .ready → ∃ t : State, stateLeft (step s) = some t) ∧
    step State.powerOn = .next { State.powerOn with pc := 0x0001, pcBefore := 0x0001, runState := .halted }

/-- R103: next state, halt or fault, with what each leaves. That the answer to a fatal condition is a fault which carries the state left is the model's choice (log entry 3). -/
def Obligations.StepHasOneOfThreeOutcomes : Prop :=
  ∀ s : State, s.runState = .ready →
    (∃ (row : Row) (t : State), lookupOpcode (s.mem.read s.pc) = some row ∧ row.mnemonic ≠ some .brk ∧
      step s = .next t ∧ t.runState = .ready ∧ t.pc = s.pc + BitVec.ofNat 16 row.length) ∨
    (s.mem.read s.pc = 0x00 ∧
      step s = .next { s with pc := s.pc + 1, pcBefore := s.pc + 1, runState := .halted }) ∨
    (lookupOpcode (s.mem.read s.pc) = none ∧ ∃ r : FaultRecord, r.kind ≠ .none ∧
      step s = .fault (.unrecognizedOpcode { s with pc := s.pc + 1, runState := .faulted, fault := r }))

/-- R100: the pc after a completed step, BRK's length being 1. The modulo is marked by the spec as its own derivation (R97, decision D5, log entry 9). -/
def Obligations.PcAdvancesByTheDeclaredLength : Prop :=
  ∀ s t : State, step s = .next t →
    ∃ row : Row, lookupOpcode (s.mem.read s.pc) = some row ∧ t.pc = s.pc + BitVec.ofNat 16 row.length ∧
      (row.mnemonic = some .brk → row.length = 1)

/-- R104, R11, which the spec marks as derived from its handlers: what a completed step may write. The address of the write is the fetched instruction's own effective address. -/
def Obligations.StepWritesAtMostOneCellAndOneRegister : Prop :=
  ∀ s t : State, step s = .next t →
    t.y = s.y ∧ t.fault = s.fault ∧ (t.a = s.a ∨ t.x = s.x) ∧
    (t.p = s.p ∨ t.p = setZN s.p t.a ∨ t.p = setZN s.p t.x) ∧
    (t.mem = s.mem ∨ ∃ (i : Instr) (addr : Address), fetch s = .ok i ∧ i.mnemonic = .sta ∧
      operandAddress i.operand s.beginHandler = some addr ∧ t.mem = s.mem.write addr s.a)

/-- R130: what every form of LDA leaves unchanged, all of memory included. -/
def Obligations.LdaFrame : Prop :=
  ∀ (i : Instr) (s t : State), i.mnemonic = .lda → exec i s = .next t →
    t.x = s.x ∧ t.y = s.y ∧ t.runState = s.runState ∧ t.fault = s.fault ∧
    (∀ k : Nat, k ≠ 1 → k ≠ 7 → t.p.getLsbD k = s.p.getLsbD k) ∧
    (∀ addr : Address, t.mem.read addr = s.mem.read addr)

/-- R139: what every form of STA leaves unchanged, and the one cell it writes, at the address of its own operand. -/
def Obligations.StaFrame : Prop :=
  ∀ (i : Instr) (s t : State), i.mnemonic = .sta → exec i s = .next t →
    t.a = s.a ∧ t.x = s.x ∧ t.y = s.y ∧ t.p = s.p ∧ t.runState = s.runState ∧ t.fault = s.fault ∧
    ∃ addr : Address, operandAddress i.operand s.beginHandler = some addr ∧ t.mem.read addr = s.a ∧
      ∀ b : Address, b ≠ addr → t.mem.read b = s.mem.read b

/-- R150, R151: what TAX and INX leave unchanged. -/
def Obligations.TaxInxFrame : Prop :=
  ∀ (i : Instr) (s t : State), i.mnemonic = .tax ∨ i.mnemonic = .inx → exec i s = .next t →
    t.a = s.a ∧ t.y = s.y ∧ t.runState = s.runState ∧ t.fault = s.fault ∧
    (∀ k : Nat, k ≠ 1 → k ≠ 7 → t.p.getLsbD k = s.p.getLsbD k) ∧
    (∀ addr : Address, t.mem.read addr = s.mem.read addr)

/-- R160, R162: BRK changes the run state and, through the fetch, the pc (and the latch), and nothing else. -/
def Obligations.BrkFrame : Prop :=
  ∀ (i : Instr) (s t : State), i.mnemonic = .brk → exec i s = .next t →
    t.a = s.a ∧ t.x = s.x ∧ t.y = s.y ∧ t.p = s.p ∧ t.fault = s.fault ∧
    (∀ addr : Address, t.mem.read addr = s.mem.read addr)

/-- R131, whole: the encoding, the instruction on its operand, and the step on the bytes in memory. -/
def Obligations.LdaImmediateLoadsAccumulator : Prop :=
  (∀ (d8 : Byte) (s : State),
      encode (.ldaImmediate d8) = [0xA9#8, d8] ∧ (
      let v := d8
      exec (.ldaImmediate d8) s = .next { s with a := v, p := setZN s.p v, pc := s.pc + 2, pcBefore := s.pc + 1 })) ∧
    (∀ s : State, s.runState = .ready → s.mem.read s.pc = 0xA9 →
      let d8 := s.mem.read (s.pc + 1)
      let v := d8
      step s = .next { s with a := v, p := setZN s.p v, pc := s.pc + 2, pcBefore := s.pc + 1 })

/-- R132, whole: the encoding, the instruction on its operand, and the step on the bytes in memory. -/
def Obligations.LdaZeroPageLoadsAccumulator : Prop :=
  (∀ (d8 : Byte) (s : State),
      encode (.ldaZeroPage d8) = [0xA5#8, d8] ∧ (
      let v := s.mem.read (zext16 d8)
      exec (.ldaZeroPage d8) s = .next { s with a := v, p := setZN s.p v, pc := s.pc + 2, pcBefore := s.pc + 1 })) ∧
    (∀ s : State, s.runState = .ready → s.mem.read s.pc = 0xA5 →
      let d8 := s.mem.read (s.pc + 1)
      let v := s.mem.read (zext16 d8)
      step s = .next { s with a := v, p := setZN s.p v, pc := s.pc + 2, pcBefore := s.pc + 1 })

/-- R133, whole: the encoding, the instruction on its operand, and the step on the bytes in memory. -/
def Obligations.LdaZeroPageXLoadsAccumulator : Prop :=
  (∀ (d8 : Byte) (s : State),
      encode (.ldaZeroPageX d8) = [0xB5#8, d8] ∧ (
      let v := s.mem.read (zext16 (d8 + s.x))
      exec (.ldaZeroPageX d8) s = .next { s with a := v, p := setZN s.p v, pc := s.pc + 2, pcBefore := s.pc + 1 })) ∧
    (∀ s : State, s.runState = .ready → s.mem.read s.pc = 0xB5 →
      let d8 := s.mem.read (s.pc + 1)
      let v := s.mem.read (zext16 (d8 + s.x))
      step s = .next { s with a := v, p := setZN s.p v, pc := s.pc + 2, pcBefore := s.pc + 1 })

/-- R134, whole: the encoding, the instruction on its operand, and the step on the bytes in memory. -/
def Obligations.LdaAbsoluteLoadsAccumulator : Prop :=
  (∀ (a16 : Address) (s : State),
      encode (.ldaAbsolute a16) = [0xAD#8, a16.extractLsb' 0 8, a16.extractLsb' 8 8] ∧ (
      let v := s.mem.read (a16)
      exec (.ldaAbsolute a16) s = .next { s with a := v, p := setZN s.p v, pc := s.pc + 3, pcBefore := s.pc + 1 })) ∧
    (∀ s : State, s.runState = .ready → s.mem.read s.pc = 0xAD →
      let a16 := word16 (s.mem.read (s.pc + 2)) (s.mem.read (s.pc + 1))
      let v := s.mem.read (a16)
      step s = .next { s with a := v, p := setZN s.p v, pc := s.pc + 3, pcBefore := s.pc + 1 })

/-- R135, whole: the encoding, the instruction on its operand, and the step on the bytes in memory. -/
def Obligations.LdaAbsoluteXLoadsAccumulator : Prop :=
  (∀ (a16 : Address) (s : State),
      encode (.ldaAbsoluteX a16) = [0xBD#8, a16.extractLsb' 0 8, a16.extractLsb' 8 8] ∧ (
      let v := s.mem.read (a16 + zext16 s.x)
      exec (.ldaAbsoluteX a16) s = .next { s with a := v, p := setZN s.p v, pc := s.pc + 3, pcBefore := s.pc + 1 })) ∧
    (∀ s : State, s.runState = .ready → s.mem.read s.pc = 0xBD →
      let a16 := word16 (s.mem.read (s.pc + 2)) (s.mem.read (s.pc + 1))
      let v := s.mem.read (a16 + zext16 s.x)
      step s = .next { s with a := v, p := setZN s.p v, pc := s.pc + 3, pcBefore := s.pc + 1 })

/-- R136, whole: the encoding, the instruction on its operand, and the step on the bytes in memory. -/
def Obligations.LdaAbsoluteYLoadsAccumulator : Prop :=
  (∀ (a16 : Address) (s : State),
      encode (.ldaAbsoluteY a16) = [0xB9#8, a16.extractLsb' 0 8, a16.extractLsb' 8 8] ∧ (
      let v := s.mem.read (a16 + zext16 s.y)
      exec (.ldaAbsoluteY a16) s = .next { s with a := v, p := setZN s.p v, pc := s.pc + 3, pcBefore := s.pc + 1 })) ∧
    (∀ s : State, s.runState = .ready → s.mem.read s.pc = 0xB9 →
      let a16 := word16 (s.mem.read (s.pc + 2)) (s.mem.read (s.pc + 1))
      let v := s.mem.read (a16 + zext16 s.y)
      step s = .next { s with a := v, p := setZN s.p v, pc := s.pc + 3, pcBefore := s.pc + 1 })

/-- R137, whole: the encoding, the instruction on its operand, and the step on the bytes in memory. -/
def Obligations.LdaIndirectXLoadsAccumulator : Prop :=
  (∀ (d8 : Byte) (s : State),
      encode (.ldaIndirectX d8) = [0xA1#8, d8] ∧ (
      let v := s.mem.read (word16 (s.mem.read (zext16 (d8 + s.x + 1))) (s.mem.read (zext16 (d8 + s.x))))
      exec (.ldaIndirectX d8) s = .next { s with a := v, p := setZN s.p v, pc := s.pc + 2, pcBefore := s.pc + 1 })) ∧
    (∀ s : State, s.runState = .ready → s.mem.read s.pc = 0xA1 →
      let d8 := s.mem.read (s.pc + 1)
      let v := s.mem.read (word16 (s.mem.read (zext16 (d8 + s.x + 1))) (s.mem.read (zext16 (d8 + s.x))))
      step s = .next { s with a := v, p := setZN s.p v, pc := s.pc + 2, pcBefore := s.pc + 1 })

/-- R138, whole: the encoding, the instruction on its operand, and the step on the bytes in memory. -/
def Obligations.LdaIndirectYLoadsAccumulator : Prop :=
  (∀ (d8 : Byte) (s : State),
      encode (.ldaIndirectY d8) = [0xB1#8, d8] ∧ (
      let v := s.mem.read (word16 (s.mem.read (zext16 (d8 + 1))) (s.mem.read (zext16 (d8))) + zext16 s.y)
      exec (.ldaIndirectY d8) s = .next { s with a := v, p := setZN s.p v, pc := s.pc + 2, pcBefore := s.pc + 1 })) ∧
    (∀ s : State, s.runState = .ready → s.mem.read s.pc = 0xB1 →
      let d8 := s.mem.read (s.pc + 1)
      let v := s.mem.read (word16 (s.mem.read (zext16 (d8 + 1))) (s.mem.read (zext16 (d8))) + zext16 s.y)
      step s = .next { s with a := v, p := setZN s.p v, pc := s.pc + 2, pcBefore := s.pc + 1 })

/-- R140, whole: the encoding, the instruction on its operand, and the step on the bytes in memory. -/
def Obligations.StaZeroPageStoresAccumulator : Prop :=
  (∀ (d8 : Byte) (s : State),
      encode (.staZeroPage d8) = [0x85#8, d8] ∧ (
      let addr := zext16 d8
      exec (.staZeroPage d8) s = .next { s with mem := s.mem.write addr s.a, pc := s.pc + 2, pcBefore := s.pc + 1 })) ∧
    (∀ s : State, s.runState = .ready → s.mem.read s.pc = 0x85 →
      let d8 := s.mem.read (s.pc + 1)
      let addr := zext16 d8
      step s = .next { s with mem := s.mem.write addr s.a, pc := s.pc + 2, pcBefore := s.pc + 1 })

/-- R141, whole: the encoding, the instruction on its operand, and the step on the bytes in memory. -/
def Obligations.StaZeroPageXStoresAccumulator : Prop :=
  (∀ (d8 : Byte) (s : State),
      encode (.staZeroPageX d8) = [0x95#8, d8] ∧ (
      let addr := zext16 (d8 + s.x)
      exec (.staZeroPageX d8) s = .next { s with mem := s.mem.write addr s.a, pc := s.pc + 2, pcBefore := s.pc + 1 })) ∧
    (∀ s : State, s.runState = .ready → s.mem.read s.pc = 0x95 →
      let d8 := s.mem.read (s.pc + 1)
      let addr := zext16 (d8 + s.x)
      step s = .next { s with mem := s.mem.write addr s.a, pc := s.pc + 2, pcBefore := s.pc + 1 })

/-- R142, whole: the encoding, the instruction on its operand, and the step on the bytes in memory. -/
def Obligations.StaAbsoluteStoresAccumulator : Prop :=
  (∀ (a16 : Address) (s : State),
      encode (.staAbsolute a16) = [0x8D#8, a16.extractLsb' 0 8, a16.extractLsb' 8 8] ∧ (
      let addr := a16
      exec (.staAbsolute a16) s = .next { s with mem := s.mem.write addr s.a, pc := s.pc + 3, pcBefore := s.pc + 1 })) ∧
    (∀ s : State, s.runState = .ready → s.mem.read s.pc = 0x8D →
      let a16 := word16 (s.mem.read (s.pc + 2)) (s.mem.read (s.pc + 1))
      let addr := a16
      step s = .next { s with mem := s.mem.write addr s.a, pc := s.pc + 3, pcBefore := s.pc + 1 })

/-- R143, whole: the encoding, the instruction on its operand, and the step on the bytes in memory. -/
def Obligations.StaAbsoluteXStoresAccumulator : Prop :=
  (∀ (a16 : Address) (s : State),
      encode (.staAbsoluteX a16) = [0x9D#8, a16.extractLsb' 0 8, a16.extractLsb' 8 8] ∧ (
      let addr := a16 + zext16 s.x
      exec (.staAbsoluteX a16) s = .next { s with mem := s.mem.write addr s.a, pc := s.pc + 3, pcBefore := s.pc + 1 })) ∧
    (∀ s : State, s.runState = .ready → s.mem.read s.pc = 0x9D →
      let a16 := word16 (s.mem.read (s.pc + 2)) (s.mem.read (s.pc + 1))
      let addr := a16 + zext16 s.x
      step s = .next { s with mem := s.mem.write addr s.a, pc := s.pc + 3, pcBefore := s.pc + 1 })

/-- R144, whole: the encoding, the instruction on its operand, and the step on the bytes in memory. -/
def Obligations.StaAbsoluteYStoresAccumulator : Prop :=
  (∀ (a16 : Address) (s : State),
      encode (.staAbsoluteY a16) = [0x99#8, a16.extractLsb' 0 8, a16.extractLsb' 8 8] ∧ (
      let addr := a16 + zext16 s.y
      exec (.staAbsoluteY a16) s = .next { s with mem := s.mem.write addr s.a, pc := s.pc + 3, pcBefore := s.pc + 1 })) ∧
    (∀ s : State, s.runState = .ready → s.mem.read s.pc = 0x99 →
      let a16 := word16 (s.mem.read (s.pc + 2)) (s.mem.read (s.pc + 1))
      let addr := a16 + zext16 s.y
      step s = .next { s with mem := s.mem.write addr s.a, pc := s.pc + 3, pcBefore := s.pc + 1 })

/-- R145, whole: the encoding, the instruction on its operand, and the step on the bytes in memory. -/
def Obligations.StaIndirectXStoresAccumulator : Prop :=
  (∀ (d8 : Byte) (s : State),
      encode (.staIndirectX d8) = [0x81#8, d8] ∧ (
      let addr := word16 (s.mem.read (zext16 (d8 + s.x + 1))) (s.mem.read (zext16 (d8 + s.x)))
      exec (.staIndirectX d8) s = .next { s with mem := s.mem.write addr s.a, pc := s.pc + 2, pcBefore := s.pc + 1 })) ∧
    (∀ s : State, s.runState = .ready → s.mem.read s.pc = 0x81 →
      let d8 := s.mem.read (s.pc + 1)
      let addr := word16 (s.mem.read (zext16 (d8 + s.x + 1))) (s.mem.read (zext16 (d8 + s.x)))
      step s = .next { s with mem := s.mem.write addr s.a, pc := s.pc + 2, pcBefore := s.pc + 1 })

/-- R146, whole: the encoding, the instruction on its operand, and the step on the bytes in memory. -/
def Obligations.StaIndirectYStoresAccumulator : Prop :=
  (∀ (d8 : Byte) (s : State),
      encode (.staIndirectY d8) = [0x91#8, d8] ∧ (
      let addr := word16 (s.mem.read (zext16 (d8 + 1))) (s.mem.read (zext16 (d8))) + zext16 s.y
      exec (.staIndirectY d8) s = .next { s with mem := s.mem.write addr s.a, pc := s.pc + 2, pcBefore := s.pc + 1 })) ∧
    (∀ s : State, s.runState = .ready → s.mem.read s.pc = 0x91 →
      let d8 := s.mem.read (s.pc + 1)
      let addr := word16 (s.mem.read (zext16 (d8 + 1))) (s.mem.read (zext16 (d8))) + zext16 s.y
      step s = .next { s with mem := s.mem.write addr s.a, pc := s.pc + 2, pcBefore := s.pc + 1 })

/-- R150, whole: the encoding, the instruction, and the step on the byte in memory. -/
def Obligations.TaxCopiesAccumulatorToX : Prop :=
  encode .tax = [0xAA#8] ∧
    (∀ s : State,
      exec .tax s = .next { s with x := s.a, p := setZN s.p s.a, pc := s.pc + 1, pcBefore := s.pc + 1 }) ∧
    (∀ s : State, s.runState = .ready → s.mem.read s.pc = 0xAA →
      step s = .next { s with x := s.a, p := setZN s.p s.a, pc := s.pc + 1, pcBefore := s.pc + 1 })

/-- R151, whole: the encoding, the instruction (the addition is that of 8-bit vectors), and the step on the byte in memory. -/
def Obligations.InxIncrementsXModulo256 : Prop :=
  encode .inx = [0xE8#8] ∧
    (∀ s : State,
      exec .inx s = .next { s with x := s.x + 1, p := setZN s.p (s.x + 1), pc := s.pc + 1, pcBefore := s.pc + 1 }) ∧
    (∀ s : State, s.runState = .ready → s.mem.read s.pc = 0xE8 →
      step s = .next { s with x := s.x + 1, p := setZN s.p (s.x + 1), pc := s.pc + 1, pcBefore := s.pc + 1 })

/-- R160, whole: the encoding, the instruction, and the step on the byte in memory. -/
def Obligations.BrkHaltsTheBlock : Prop :=
  encode .brk = [0x00#8] ∧
    (∀ s : State,
      exec .brk s = .next { s with pc := s.pc + 1, pcBefore := s.pc + 1, runState := .halted }) ∧
    (∀ s : State, s.runState = .ready → s.mem.read s.pc = 0x00 →
      step s = .next { s with pc := s.pc + 1, pcBefore := s.pc + 1, runState := .halted })

/-- R110 to R118: `EA(mode)` at a state whose pc is the address after the opcode. The last clause is R119: NoneAddressing has no address; that a request for one raises the fatal condition is `MalformedRowsRaiseTheirFaults`. -/
def Obligations.ResolverComputesEveryMode : Prop :=
  ∀ s : State,
    let d8 := s.mem.read s.pc
    let a16 := word16 (s.mem.read (s.pc + 1)) (s.mem.read s.pc)
    let pointer := fun b : Byte => word16 (s.mem.read (zext16 (b + 1))) (s.mem.read (zext16 b))
    effectiveAddress .immediate s = some s.pc ∧
    effectiveAddress .zeroPage s = some (zext16 d8) ∧
    effectiveAddress .zeroPageX s = some (zext16 (d8 + s.x)) ∧
    effectiveAddress .zeroPageY s = some (zext16 (d8 + s.y)) ∧
    effectiveAddress .absolute s = some a16 ∧
    effectiveAddress .absoluteX s = some (a16 + zext16 s.x) ∧
    effectiveAddress .absoluteY s = some (a16 + zext16 s.y) ∧
    effectiveAddress .indirectX s = some (pointer (d8 + s.x)) ∧
    effectiveAddress .indirectY s = some (pointer d8 + zext16 s.y) ∧
    effectiveAddress .noneAddressing s = none

/-- spec/41_addressing_modes.md R120, spec/20_memory.md R54: the zero-page forms reach 0x0000 to 0x00FF alone, whatever the index. -/
def Obligations.ZeroPageModesStayInPageZero : Prop :=
  ∀ (m : Mode) (s : State), m = .zeroPage ∨ m = .zeroPageX ∨ m = .zeroPageY →
    ∃ addr : Address, effectiveAddress m s = some addr ∧ addr.toNat < 256

/-- spec/43_register_ops.md R152: the six operations as numbers, with their moduli. -/
def Obligations.AluOperationsWrapAtTheirWidth : Prop :=
  ∀ (u v : Byte) (w : Address) (length : Nat), 1 ≤ length → length ≤ 3 →
    pass8 v = v ∧ (inc8 v).toNat = (v.toNat + 1) % 256 ∧ (add8 u v).toNat = (u.toNat + v.toNat) % 256 ∧
    (add16 w v).toNat = (w.toNat + v.toNat) % 65536 ∧ (inc16 w).toNat = (w.toNat + 1) % 65536 ∧
    (addLen w length).toNat = (w.toNat + length - 1) % 65536

/-- R204, R206: what a load that fits leaves, at any load address; the vector wins where the image reaches it. That the host's load uses the block's own LOAD_ADDRESS is the last clause. Order and overlap are marked by the spec as its own decision D12. -/
def Obligations.LoadWritesTheImageThenTheVector : Prop :=
  (∀ (loadAddress : Address) (program : List Byte) (s : State),
      program.length ≤ 65536 - loadAddress.toNat →
      ∃ t : State, loadAt loadAddress program s = .next t ∧ t = { s with mem := t.mem } ∧
        t.mem.read 0xFFFC = loadAddress.extractLsb' 0 8 ∧ t.mem.read 0xFFFD = loadAddress.extractLsb' 8 8 ∧
        ∀ addr : Address, addr ≠ 0xFFFC → addr ≠ 0xFFFD →
          t.mem.read addr =
            if loadAddress.toNat ≤ addr.toNat ∧ addr.toNat < loadAddress.toNat + program.length then
              program.getD (addr.toNat - loadAddress.toNat) 0
            else s.mem.read addr) ∧
    (∀ (program : List Byte) (s : State), hostOp (.load program) s = loadAt Config.loadAddress program s)

/-- spec/70_reset_and_hazards.md R205, spec/93_implementation_defined.md U4: the block does not define what an oversize load does, and that it is left out is the spec's own decision D13. Answering it by the refusal `loadTooLarge` is the model's (log entry 6). -/
def Obligations.OversizeLoadIsRefused : Prop :=
  ∀ (loadAddress : Address) (program : List Byte) (s : State),
    65536 - loadAddress.toNat < program.length → loadAt loadAddress program s = .refused .loadTooLarge

/-- spec/70_reset_and_hazards.md R208: after load and then reset the pc is the load address, the registers and flags are zero, and the image is in memory. -/
def Obligations.LoadThenResetStartsTheProgram : Prop :=
  ∀ (loadAddress : Address) (program : List Byte) (s : State), s.runState ≠ .faulted →
    program.length ≤ 65536 - loadAddress.toNat →
    ∃ t u : State, loadAt loadAddress program s = .next t ∧ hostOp .reset t = .next u ∧
      u.pc = loadAddress ∧ u.a = 0x00 ∧ u.x = 0x00 ∧ u.y = 0x00 ∧ u.p = 0x00 ∧ u.runState = .ready ∧ u.mem = t.mem

/-- R177: in Faulted no step and no reset is taken, and whatever the host does short of power-on leaves the block Faulted with its record. The spec marks this as its own decision D8. -/
def Obligations.FaultedIsAbsorbing : Prop :=
  ∀ s : State, s.runState = .faulted →
    stateLeft (step s) = none ∧ stateLeft (hostOp .reset s) = none ∧
    (∃ t : State, hostOp .powerOn s = .next t ∧ t.runState = .ready) ∧
    ∀ (op : HostOp) (t : State), op ≠ .powerOn → stateLeft (hostOp op s) = some t →
      t.runState = .faulted ∧ t.fault = s.fault

/-- The names under which the model answers that there is no move, which are the model's choice (log entries 4 and 5): a step in Halted or Faulted, a reset in Faulted. -/
def Obligations.StopsAreNamed : Prop :=
  ∀ s : State,
    (s.runState = .halted → step s = .fault .noStepHalted) ∧
    (s.runState = .faulted → step s = .fault .noStepFaulted ∧ hostOp .reset s = .refused .resetWhileFaulted)

/-- The invariant of Safety.lean at reset: memory canonical (the model's own form), Y zero and P legal (R24), the fault record clear (R19). -/
def Obligations.ResetStateMeetsTheInvariant : Prop :=
  State.reset.Inv

/-- Every step keeps the invariant, from every state that meets it, in the next state and in the state a fault leaves (R16, R19, R24; the canonical form of memory is the model's own). -/
def Obligations.StepKeepsTheInvariant : Prop :=
  ∀ s t : State, s.Inv → step s = .next t ∨ (∃ f : Fault, step s = .fault f ∧ f.left = some t) → t.Inv

/-- R24: the two facts, in every state that power-on and the host's operations can bring the block to, with any loads, memory writes, resets and steps in any order. The spec marks them as derived from its rules. -/
def Obligations.ReachableStatesHaveYZeroAndLegalStatus : Prop :=
  ∀ s : State, Reachable s → s.y = 0x00 ∧ (s.p = 0x00 ∨ s.p = 0x02 ∨ s.p = 0x80)

/-- R19: the fault record is clear in every reachable state that is not Faulted. Beside it the model's own form of memory (log entry 16), in every reachable state. With `ReachableStatesHaveYZeroAndLegalStatus` this is the invariant of Safety.lean over all the host's operations. -/
def Obligations.ReachableStatesKeepMemoryCanonicalAndRecordClear : Prop :=
  ∀ s : State, Reachable s → s.mem.wf ∧ FaultRecordInv s

/-- spec/10_state.md R13: no in-scope instruction reads P. Two runs of a step that differ in P alone differ in P alone afterwards. -/
def Obligations.StatusNeverInfluencesExecution : Prop :=
  ∀ (s t : State) (q : Byte), step s = .next t →
    ∃ q' : Byte, step { s with p := q } = .next { t with p := q' }

/-- R20: the latch carries nothing from one step to the next. -/
def Obligations.TheLatchIsNeverRead : Prop :=
  (∀ (i : Instr) (s : State) (v : Address), exec i { s with pcBefore := v } = exec i s) ∧
    (∀ (s t : State) (v : Address), step s = .next t → step { s with pcBefore := v } = .next t) ∧
    (∀ s t : State, step s = .next t → t.pcBefore = s.pc + 1)

/-- R98, R222 (decision D26 of the spec): `run`, the spec's `Run()` cut off after a number of steps (log entry 13), takes no step at the bound zero and none in a state that is not Ready, and in a Ready state goes on from the state its step leaves, a fatal condition's included. Once it has ended it stays ended in the same state. -/
def Obligations.RunStopsAtTheFirstStateNotReady : Prop :=
  (∀ s : State, run 0 s = s) ∧
    (∀ (n : Nat) (s : State), s.runState ≠ .ready → run n s = s) ∧
    (∀ (n : Nat) (s t : State), s.runState = .ready → stateLeft (step s) = some t → run (n + 1) s = run n t) ∧
    (∀ (n : Nat) (s t : State), RunEnds s n t → ∀ k : Nat, run (n + k) s = t)

/-- R53, spec/70_reset_and_hazards.md R211: a store whose address is where the next instruction stands changes what the next step fetches. -/
def Obligations.StoreIsSeenByTheNextFetch : Prop :=
  ∀ (i : Instr) (s t : State) (addr : Address), i.mnemonic = .sta →
    operandAddress i.operand s.beginHandler = some addr → exec i s = .next t →
    (addr = t.pc → fetchOpcode t = s.a) ∧ (addr ≠ t.pc → fetchOpcode t = s.mem.read t.pc)
end

