-- ==== Sys2Proof/Laws/Decode.lean ====
section
/-!
SUPPORT. The parts of decoding: the byte-order helpers, and taking an operand off the bytes it is encoded in.
-/

namespace Sys2Proof.Laws

open Sys2Proof.Machine

/-- The value of two bytes put together (R72). -/
theorem word16_toNat (hi lo : Byte) : (word16 hi lo).toNat = hi.toNat * 256 + lo.toNat := by
  have h : (word16 hi lo).toNat = hi.toNat <<< 8 ||| lo.toNat := BitVec.toNat_append (m := 8) hi lo
  rw [h, ← Nat.shiftLeft_add_eq_or_of_lt lo.isLt, Nat.shiftLeft_eq]

/-- A 16-bit value is put together from its own two bytes. -/
@[simp] theorem word16_bytes (v : Address) : word16 (highByte v) (lowByte v) = v := by
  apply BitVec.eq_of_toNat_eq
  rw [word16_toNat]
  simp only [highByte, lowByte, BitVec.extractLsb'_toNat, Nat.shiftRight_eq_div_pow]
  omega

@[simp] theorem lowByte_word16 (hi lo : Byte) : lowByte (word16 hi lo) = lo := by
  apply BitVec.eq_of_toNat_eq
  simp only [lowByte, BitVec.extractLsb'_toNat, Nat.shiftRight_eq_div_pow, word16_toNat]
  omega

@[simp] theorem highByte_word16 (hi lo : Byte) : highByte (word16 hi lo) = hi := by
  apply BitVec.eq_of_toNat_eq
  simp only [highByte, BitVec.extractLsb'_toNat, Nat.shiftRight_eq_div_pow, word16_toNat]
  omega

/-- The bytes of an operand are as many as its mode says (R73). -/
theorem length_operand_bytes (o : Operand) : o.bytes.length = o.mode.operandBytes := by
  cases o <;> rfl

/-- An operand is read back from its own bytes, and the bytes after them are left (R71, R72). -/
theorem takeOperand_bytes (o : Operand) (rest : List Byte) : takeOperand o.mode (o.bytes ++ rest) = some (o, rest) := by
  cases o <;> simp [takeOperand, Operand.mode, Operand.bytes]

/-- What a lookup that finds a row says: the row is in the table and has that opcode byte (R80). -/
theorem lookupRow_inv {table : List Row} {op : Byte} {row : Row} (h : lookupRow table op = some row) :
    row ∈ table ∧ row.opcode = op :=
  ⟨List.mem_of_find?_eq_some h, by simpa using List.find?_some h⟩

/-- An operand taken off a list of bytes is of its mode, and the list was its bytes and the rest (R71, R72). -/
theorem takeOperand_inv {m : Mode} {bytes rest : List Byte} {o : Operand} (h : takeOperand m bytes = some (o, rest)) :
    o.mode = m ∧ bytes = o.bytes ++ rest := by
  unfold takeOperand at h
  split at h <;> simp only [Option.some.injEq, Prod.mk.injEq, reduceCtorEq] at h <;>
    obtain ⟨rfl, rfl⟩ := h <;> simp [Operand.mode, Operand.bytes]

/-- An instruction put together has the mnemonic and the operand it was put together from (R74). -/
theorem assemble_inv {mn : Mnemonic} {o : Operand} {i : Instr} (h : assemble mn o = some i) :
    i.mnemonic = mn ∧ i.operand = o := by
  cases mn <;> cases o <;> cases h <;> exact ⟨rfl, rfl⟩

/-- Two rows of the table with one mnemonic and one mode are one row (R74). -/
theorem opcodeTable_unique :
    ∀ r ∈ opcodeTable, ∀ r' ∈ opcodeTable, r.mnemonic = r'.mnemonic → r.mode = r'.mode → r = r' := by
  decide

/-- The table is well formed: each row's mnemonic has a handler and admits its mode, each length is its mode's, and no
opcode byte has two rows (R73 to R75, R77). -/
theorem opcodeTable_wellFormed : tableWellFormed opcodeTable = true := by
  decide

end Sys2Proof.Laws
end

