-- ==== Sys2Proof/Laws/State.lean ====
section
/-!
SUPPORT. For each update of the state, what each field holds after it: one lemma per field per update, so that no later
proof unfolds a record update.
-/

namespace Sys2Proof.Machine

@[simp] theorem State.setA_a (s : State) (v : Byte) : (s.setA v).a = v := rfl
@[simp] theorem State.setA_x (s : State) (v : Byte) : (s.setA v).x = s.x := rfl
@[simp] theorem State.setA_y (s : State) (v : Byte) : (s.setA v).y = s.y := rfl
@[simp] theorem State.setA_p (s : State) (v : Byte) : (s.setA v).p = s.p := rfl
@[simp] theorem State.setA_pc (s : State) (v : Byte) : (s.setA v).pc = s.pc := rfl
@[simp] theorem State.setA_pcBefore (s : State) (v : Byte) : (s.setA v).pcBefore = s.pcBefore := rfl
@[simp] theorem State.setA_mem (s : State) (v : Byte) : (s.setA v).mem = s.mem := rfl
@[simp] theorem State.setA_runState (s : State) (v : Byte) : (s.setA v).runState = s.runState := rfl
@[simp] theorem State.setA_fault (s : State) (v : Byte) : (s.setA v).fault = s.fault := rfl

@[simp] theorem State.setX_a (s : State) (v : Byte) : (s.setX v).a = s.a := rfl
@[simp] theorem State.setX_x (s : State) (v : Byte) : (s.setX v).x = v := rfl
@[simp] theorem State.setX_y (s : State) (v : Byte) : (s.setX v).y = s.y := rfl
@[simp] theorem State.setX_p (s : State) (v : Byte) : (s.setX v).p = s.p := rfl
@[simp] theorem State.setX_pc (s : State) (v : Byte) : (s.setX v).pc = s.pc := rfl
@[simp] theorem State.setX_pcBefore (s : State) (v : Byte) : (s.setX v).pcBefore = s.pcBefore := rfl
@[simp] theorem State.setX_mem (s : State) (v : Byte) : (s.setX v).mem = s.mem := rfl
@[simp] theorem State.setX_runState (s : State) (v : Byte) : (s.setX v).runState = s.runState := rfl
@[simp] theorem State.setX_fault (s : State) (v : Byte) : (s.setX v).fault = s.fault := rfl

@[simp] theorem State.setP_a (s : State) (v : Byte) : (s.setP v).a = s.a := rfl
@[simp] theorem State.setP_x (s : State) (v : Byte) : (s.setP v).x = s.x := rfl
@[simp] theorem State.setP_y (s : State) (v : Byte) : (s.setP v).y = s.y := rfl
@[simp] theorem State.setP_p (s : State) (v : Byte) : (s.setP v).p = v := rfl
@[simp] theorem State.setP_pc (s : State) (v : Byte) : (s.setP v).pc = s.pc := rfl
@[simp] theorem State.setP_pcBefore (s : State) (v : Byte) : (s.setP v).pcBefore = s.pcBefore := rfl
@[simp] theorem State.setP_mem (s : State) (v : Byte) : (s.setP v).mem = s.mem := rfl
@[simp] theorem State.setP_runState (s : State) (v : Byte) : (s.setP v).runState = s.runState := rfl
@[simp] theorem State.setP_fault (s : State) (v : Byte) : (s.setP v).fault = s.fault := rfl

@[simp] theorem State.setPc_a (s : State) (v : Address) : (s.setPc v).a = s.a := rfl
@[simp] theorem State.setPc_x (s : State) (v : Address) : (s.setPc v).x = s.x := rfl
@[simp] theorem State.setPc_y (s : State) (v : Address) : (s.setPc v).y = s.y := rfl
@[simp] theorem State.setPc_p (s : State) (v : Address) : (s.setPc v).p = s.p := rfl
@[simp] theorem State.setPc_pc (s : State) (v : Address) : (s.setPc v).pc = v := rfl
@[simp] theorem State.setPc_pcBefore (s : State) (v : Address) : (s.setPc v).pcBefore = s.pcBefore := rfl
@[simp] theorem State.setPc_mem (s : State) (v : Address) : (s.setPc v).mem = s.mem := rfl
@[simp] theorem State.setPc_runState (s : State) (v : Address) : (s.setPc v).runState = s.runState := rfl
@[simp] theorem State.setPc_fault (s : State) (v : Address) : (s.setPc v).fault = s.fault := rfl

@[simp] theorem State.setPcBefore_a (s : State) (v : Address) : (s.setPcBefore v).a = s.a := rfl
@[simp] theorem State.setPcBefore_x (s : State) (v : Address) : (s.setPcBefore v).x = s.x := rfl
@[simp] theorem State.setPcBefore_y (s : State) (v : Address) : (s.setPcBefore v).y = s.y := rfl
@[simp] theorem State.setPcBefore_p (s : State) (v : Address) : (s.setPcBefore v).p = s.p := rfl
@[simp] theorem State.setPcBefore_pc (s : State) (v : Address) : (s.setPcBefore v).pc = s.pc := rfl
@[simp] theorem State.setPcBefore_pcBefore (s : State) (v : Address) : (s.setPcBefore v).pcBefore = v := rfl
@[simp] theorem State.setPcBefore_mem (s : State) (v : Address) : (s.setPcBefore v).mem = s.mem := rfl
@[simp] theorem State.setPcBefore_runState (s : State) (v : Address) : (s.setPcBefore v).runState = s.runState := rfl
@[simp] theorem State.setPcBefore_fault (s : State) (v : Address) : (s.setPcBefore v).fault = s.fault := rfl

@[simp] theorem State.setMem_a (s : State) (v : Memory) : (s.setMem v).a = s.a := rfl
@[simp] theorem State.setMem_x (s : State) (v : Memory) : (s.setMem v).x = s.x := rfl
@[simp] theorem State.setMem_y (s : State) (v : Memory) : (s.setMem v).y = s.y := rfl
@[simp] theorem State.setMem_p (s : State) (v : Memory) : (s.setMem v).p = s.p := rfl
@[simp] theorem State.setMem_pc (s : State) (v : Memory) : (s.setMem v).pc = s.pc := rfl
@[simp] theorem State.setMem_pcBefore (s : State) (v : Memory) : (s.setMem v).pcBefore = s.pcBefore := rfl
@[simp] theorem State.setMem_mem (s : State) (v : Memory) : (s.setMem v).mem = v := rfl
@[simp] theorem State.setMem_runState (s : State) (v : Memory) : (s.setMem v).runState = s.runState := rfl
@[simp] theorem State.setMem_fault (s : State) (v : Memory) : (s.setMem v).fault = s.fault := rfl

@[simp] theorem State.setRunState_a (s : State) (v : RunState) : (s.setRunState v).a = s.a := rfl
@[simp] theorem State.setRunState_x (s : State) (v : RunState) : (s.setRunState v).x = s.x := rfl
@[simp] theorem State.setRunState_y (s : State) (v : RunState) : (s.setRunState v).y = s.y := rfl
@[simp] theorem State.setRunState_p (s : State) (v : RunState) : (s.setRunState v).p = s.p := rfl
@[simp] theorem State.setRunState_pc (s : State) (v : RunState) : (s.setRunState v).pc = s.pc := rfl
@[simp] theorem State.setRunState_pcBefore (s : State) (v : RunState) : (s.setRunState v).pcBefore = s.pcBefore := rfl
@[simp] theorem State.setRunState_mem (s : State) (v : RunState) : (s.setRunState v).mem = s.mem := rfl
@[simp] theorem State.setRunState_runState (s : State) (v : RunState) : (s.setRunState v).runState = v := rfl
@[simp] theorem State.setRunState_fault (s : State) (v : RunState) : (s.setRunState v).fault = s.fault := rfl

@[simp] theorem State.setFault_a (s : State) (v : FaultRecord) : (s.setFault v).a = s.a := rfl
@[simp] theorem State.setFault_x (s : State) (v : FaultRecord) : (s.setFault v).x = s.x := rfl
@[simp] theorem State.setFault_y (s : State) (v : FaultRecord) : (s.setFault v).y = s.y := rfl
@[simp] theorem State.setFault_p (s : State) (v : FaultRecord) : (s.setFault v).p = s.p := rfl
@[simp] theorem State.setFault_pc (s : State) (v : FaultRecord) : (s.setFault v).pc = s.pc := rfl
@[simp] theorem State.setFault_pcBefore (s : State) (v : FaultRecord) : (s.setFault v).pcBefore = s.pcBefore := rfl
@[simp] theorem State.setFault_mem (s : State) (v : FaultRecord) : (s.setFault v).mem = s.mem := rfl
@[simp] theorem State.setFault_runState (s : State) (v : FaultRecord) : (s.setFault v).runState = s.runState := rfl
@[simp] theorem State.setFault_fault (s : State) (v : FaultRecord) : (s.setFault v).fault = v := rfl

@[simp] theorem State.advancePastOpcode_a (s : State) : (s.advancePastOpcode).a = s.a := rfl
@[simp] theorem State.advancePastOpcode_x (s : State) : (s.advancePastOpcode).x = s.x := rfl
@[simp] theorem State.advancePastOpcode_y (s : State) : (s.advancePastOpcode).y = s.y := rfl
@[simp] theorem State.advancePastOpcode_p (s : State) : (s.advancePastOpcode).p = s.p := rfl
@[simp] theorem State.advancePastOpcode_pc (s : State) : (s.advancePastOpcode).pc = inc16 s.pc := rfl
@[simp] theorem State.advancePastOpcode_pcBefore (s : State) : (s.advancePastOpcode).pcBefore = s.pcBefore := rfl
@[simp] theorem State.advancePastOpcode_mem (s : State) : (s.advancePastOpcode).mem = s.mem := rfl
@[simp] theorem State.advancePastOpcode_runState (s : State) : (s.advancePastOpcode).runState = s.runState := rfl
@[simp] theorem State.advancePastOpcode_fault (s : State) : (s.advancePastOpcode).fault = s.fault := rfl

@[simp] theorem State.latch_a (s : State) : (s.latch).a = s.a := rfl
@[simp] theorem State.latch_x (s : State) : (s.latch).x = s.x := rfl
@[simp] theorem State.latch_y (s : State) : (s.latch).y = s.y := rfl
@[simp] theorem State.latch_p (s : State) : (s.latch).p = s.p := rfl
@[simp] theorem State.latch_pc (s : State) : (s.latch).pc = s.pc := rfl
@[simp] theorem State.latch_pcBefore (s : State) : (s.latch).pcBefore = s.pc := rfl
@[simp] theorem State.latch_mem (s : State) : (s.latch).mem = s.mem := rfl
@[simp] theorem State.latch_runState (s : State) : (s.latch).runState = s.runState := rfl
@[simp] theorem State.latch_fault (s : State) : (s.latch).fault = s.fault := rfl

@[simp] theorem State.beginHandler_a (s : State) : (s.beginHandler).a = s.a := rfl
@[simp] theorem State.beginHandler_x (s : State) : (s.beginHandler).x = s.x := rfl
@[simp] theorem State.beginHandler_y (s : State) : (s.beginHandler).y = s.y := rfl
@[simp] theorem State.beginHandler_p (s : State) : (s.beginHandler).p = s.p := rfl
@[simp] theorem State.beginHandler_pc (s : State) : (s.beginHandler).pc = inc16 s.pc := rfl
@[simp] theorem State.beginHandler_pcBefore (s : State) : (s.beginHandler).pcBefore = inc16 s.pc := rfl
@[simp] theorem State.beginHandler_mem (s : State) : (s.beginHandler).mem = s.mem := rfl
@[simp] theorem State.beginHandler_runState (s : State) : (s.beginHandler).runState = s.runState := rfl
@[simp] theorem State.beginHandler_fault (s : State) : (s.beginHandler).fault = s.fault := rfl

@[simp] theorem State.setFlags_a (s : State) (v : Byte) : (s.setFlags v).a = s.a := rfl
@[simp] theorem State.setFlags_x (s : State) (v : Byte) : (s.setFlags v).x = s.x := rfl
@[simp] theorem State.setFlags_y (s : State) (v : Byte) : (s.setFlags v).y = s.y := rfl
@[simp] theorem State.setFlags_p (s : State) (v : Byte) : (s.setFlags v).p = setZN s.p v := rfl
@[simp] theorem State.setFlags_pc (s : State) (v : Byte) : (s.setFlags v).pc = s.pc := rfl
@[simp] theorem State.setFlags_pcBefore (s : State) (v : Byte) : (s.setFlags v).pcBefore = s.pcBefore := rfl
@[simp] theorem State.setFlags_mem (s : State) (v : Byte) : (s.setFlags v).mem = s.mem := rfl
@[simp] theorem State.setFlags_runState (s : State) (v : Byte) : (s.setFlags v).runState = s.runState := rfl
@[simp] theorem State.setFlags_fault (s : State) (v : Byte) : (s.setFlags v).fault = s.fault := rfl

@[simp] theorem State.loadA_a (s : State) (v : Byte) : (s.loadA v).a = v := rfl
@[simp] theorem State.loadA_x (s : State) (v : Byte) : (s.loadA v).x = s.x := rfl
@[simp] theorem State.loadA_y (s : State) (v : Byte) : (s.loadA v).y = s.y := rfl
@[simp] theorem State.loadA_p (s : State) (v : Byte) : (s.loadA v).p = setZN s.p v := rfl
@[simp] theorem State.loadA_pc (s : State) (v : Byte) : (s.loadA v).pc = s.pc := rfl
@[simp] theorem State.loadA_pcBefore (s : State) (v : Byte) : (s.loadA v).pcBefore = s.pcBefore := rfl
@[simp] theorem State.loadA_mem (s : State) (v : Byte) : (s.loadA v).mem = s.mem := rfl
@[simp] theorem State.loadA_runState (s : State) (v : Byte) : (s.loadA v).runState = s.runState := rfl
@[simp] theorem State.loadA_fault (s : State) (v : Byte) : (s.loadA v).fault = s.fault := rfl

@[simp] theorem State.loadX_a (s : State) (v : Byte) : (s.loadX v).a = s.a := rfl
@[simp] theorem State.loadX_x (s : State) (v : Byte) : (s.loadX v).x = v := rfl
@[simp] theorem State.loadX_y (s : State) (v : Byte) : (s.loadX v).y = s.y := rfl
@[simp] theorem State.loadX_p (s : State) (v : Byte) : (s.loadX v).p = setZN s.p v := rfl
@[simp] theorem State.loadX_pc (s : State) (v : Byte) : (s.loadX v).pc = s.pc := rfl
@[simp] theorem State.loadX_pcBefore (s : State) (v : Byte) : (s.loadX v).pcBefore = s.pcBefore := rfl
@[simp] theorem State.loadX_mem (s : State) (v : Byte) : (s.loadX v).mem = s.mem := rfl
@[simp] theorem State.loadX_runState (s : State) (v : Byte) : (s.loadX v).runState = s.runState := rfl
@[simp] theorem State.loadX_fault (s : State) (v : Byte) : (s.loadX v).fault = s.fault := rfl

@[simp] theorem State.storeA_a (s : State) (addr : Address) : (s.storeA addr).a = s.a := rfl
@[simp] theorem State.storeA_x (s : State) (addr : Address) : (s.storeA addr).x = s.x := rfl
@[simp] theorem State.storeA_y (s : State) (addr : Address) : (s.storeA addr).y = s.y := rfl
@[simp] theorem State.storeA_p (s : State) (addr : Address) : (s.storeA addr).p = s.p := rfl
@[simp] theorem State.storeA_pc (s : State) (addr : Address) : (s.storeA addr).pc = s.pc := rfl
@[simp] theorem State.storeA_pcBefore (s : State) (addr : Address) : (s.storeA addr).pcBefore = s.pcBefore := rfl
@[simp] theorem State.storeA_mem (s : State) (addr : Address) : (s.storeA addr).mem = s.mem.write addr s.a := rfl
@[simp] theorem State.storeA_runState (s : State) (addr : Address) : (s.storeA addr).runState = s.runState := rfl
@[simp] theorem State.storeA_fault (s : State) (addr : Address) : (s.storeA addr).fault = s.fault := rfl

@[simp] theorem State.transferAToX_a (s : State) : (s.transferAToX).a = s.a := rfl
@[simp] theorem State.transferAToX_x (s : State) : (s.transferAToX).x = s.a := rfl
@[simp] theorem State.transferAToX_y (s : State) : (s.transferAToX).y = s.y := rfl
@[simp] theorem State.transferAToX_p (s : State) : (s.transferAToX).p = setZN s.p s.a := rfl
@[simp] theorem State.transferAToX_pc (s : State) : (s.transferAToX).pc = s.pc := rfl
@[simp] theorem State.transferAToX_pcBefore (s : State) : (s.transferAToX).pcBefore = s.pcBefore := rfl
@[simp] theorem State.transferAToX_mem (s : State) : (s.transferAToX).mem = s.mem := rfl
@[simp] theorem State.transferAToX_runState (s : State) : (s.transferAToX).runState = s.runState := rfl
@[simp] theorem State.transferAToX_fault (s : State) : (s.transferAToX).fault = s.fault := rfl

@[simp] theorem State.incrementX_a (s : State) : (s.incrementX).a = s.a := rfl
@[simp] theorem State.incrementX_x (s : State) : (s.incrementX).x = inc8 s.x := rfl
@[simp] theorem State.incrementX_y (s : State) : (s.incrementX).y = s.y := rfl
@[simp] theorem State.incrementX_p (s : State) : (s.incrementX).p = setZN s.p (inc8 s.x) := rfl
@[simp] theorem State.incrementX_pc (s : State) : (s.incrementX).pc = s.pc := rfl
@[simp] theorem State.incrementX_pcBefore (s : State) : (s.incrementX).pcBefore = s.pcBefore := rfl
@[simp] theorem State.incrementX_mem (s : State) : (s.incrementX).mem = s.mem := rfl
@[simp] theorem State.incrementX_runState (s : State) : (s.incrementX).runState = s.runState := rfl
@[simp] theorem State.incrementX_fault (s : State) : (s.incrementX).fault = s.fault := rfl

@[simp] theorem State.advancePastOperand_a (s : State) (n : Nat) : (s.advancePastOperand n).a = s.a := by
  unfold State.advancePastOperand; split <;> rfl
@[simp] theorem State.advancePastOperand_x (s : State) (n : Nat) : (s.advancePastOperand n).x = s.x := by
  unfold State.advancePastOperand; split <;> rfl
@[simp] theorem State.advancePastOperand_y (s : State) (n : Nat) : (s.advancePastOperand n).y = s.y := by
  unfold State.advancePastOperand; split <;> rfl
@[simp] theorem State.advancePastOperand_p (s : State) (n : Nat) : (s.advancePastOperand n).p = s.p := by
  unfold State.advancePastOperand; split <;> rfl
@[simp] theorem State.advancePastOperand_pcBefore (s : State) (n : Nat) : (s.advancePastOperand n).pcBefore = s.pcBefore := by
  unfold State.advancePastOperand; split <;> rfl
@[simp] theorem State.advancePastOperand_mem (s : State) (n : Nat) : (s.advancePastOperand n).mem = s.mem := by
  unfold State.advancePastOperand; split <;> rfl
@[simp] theorem State.advancePastOperand_runState (s : State) (n : Nat) : (s.advancePastOperand n).runState = s.runState := by
  unfold State.advancePastOperand; split <;> rfl
@[simp] theorem State.advancePastOperand_fault (s : State) (n : Nat) : (s.advancePastOperand n).fault = s.fault := by
  unfold State.advancePastOperand; split <;> rfl

/-- Action 5 when the latch still holds: no handler of this hardware has moved the pc (R96). -/
theorem State.advancePastOperand_of_latched {s : State} (h : s.pc = s.pcBefore) (n : Nat) :
    s.advancePastOperand n = s.setPc (addLen s.pc n) := by
  simp [State.advancePastOperand, h]

end Sys2Proof.Machine
end

