-- ==== Sys2Proof/Laws/Exec.lean ====
section
/-!
SUPPORT. What each shared operation of a step can do, said once: the operand forms, the two families, and the inversion
of `exec`, which is where the invariants and frames of steps come from.
-/

namespace Sys2Proof.Laws

open Sys2Proof.Machine

/-- Action 1 and action 5 together move the pc by the length, for a length of at least 1 (R96, R100). -/
theorem addLen_inc16 (w : Address) {n : Nat} (h : 1 ≤ n) : addLen (inc16 w) n = w + BitVec.ofNat 16 n := by
  obtain ⟨k, rfl⟩ := Nat.exists_eq_add_of_le h
  simp [addLen, inc16, BitVec.ofNat_add, BitVec.add_assoc]

/-- Every mode's instruction has at least its opcode byte (R73). -/
theorem one_le_length (m : Mode) : 1 ≤ m.length := by
  simp [Mode.length]

/-- What an instruction that reached its handler and was advanced leaves, field by field, when the handler itself left
the pc and the latch alone. -/
theorem advance_handler {s h : State} (hpc : h.pc = inc16 s.pc) (hl : h.pcBefore = inc16 s.pc) (m : Mode) :
    h.advancePastOperand m.length = h.setPc (s.pc + BitVec.ofNat 16 m.length) := by
  rw [State.advancePastOperand_of_latched (hpc.trans hl.symm), hpc, addLen_inc16 _ (one_le_length m)]

/-- What a load form does, once its byte is known (R130). -/
theorem loadAccumulator_of_value {op : Byte} {o : Operand} {s : State} {v : Byte}
    (h : operandValue o s.beginHandler = some v) :
    loadAccumulator op o s =
      .next { s with a := v, p := setZN s.p v, pc := s.pc + BitVec.ofNat 16 o.mode.length, pcBefore := s.pc + 1 } := by
  simp only [loadAccumulator, h]
  rw [advance_handler (s := s) (h := s.beginHandler.loadA v) (by simp) (by simp)]
  rfl

/-- What a store form does, once its address is known (R139). -/
theorem storeAccumulator_of_address {op : Byte} {o : Operand} {s : State} {addr : Address}
    (h : operandAddress o s.beginHandler = some addr) :
    storeAccumulator op o s =
      .next { s with
        mem := s.mem.write addr s.a, pc := s.pc + BitVec.ofNat 16 o.mode.length, pcBefore := s.pc + 1 } := by
  simp only [storeAccumulator, h]
  rw [advance_handler (s := s) (h := s.beginHandler.storeA addr) (by simp) (by simp)]
  rfl

/-- The effective address of every operand but NoneAddressing exists (R110 to R119). -/
theorem operandAddress_isSome {o : Operand} (h : o ≠ .noneAddressing) (s : State) :
    ∃ addr, operandAddress o s = some addr := by
  cases o <;> first | exact ⟨_, rfl⟩ | exact absurd rfl h

/-- The byte of every operand but NoneAddressing exists. -/
theorem operandValue_isSome {o : Operand} (h : o ≠ .noneAddressing) (s : State) : ∃ v, operandValue o s = some v := by
  cases o <;> first | exact ⟨_, rfl⟩ | exact absurd rfl h

/-- Each LDA constructor's meaning is the load of its own opcode and operand (R130). -/
theorem exec_of_lda {i : Instr} (h : i.mnemonic = .lda) (s : State) :
    exec i s = loadAccumulator i.opcode i.operand s := by
  cases i <;> first | rfl | cases h

/-- Each STA constructor's meaning is the store of its own opcode and operand (R139). -/
theorem exec_of_sta {i : Instr} (h : i.mnemonic = .sta) (s : State) :
    exec i s = storeAccumulator i.opcode i.operand s := by
  cases i <;> first | rfl | cases h

/-- LDA and STA never carry NoneAddressing (R172). -/
theorem operand_ne_none {i : Instr} (h : i.mnemonic = .lda ∨ i.mnemonic = .sta) : i.operand ≠ .noneAddressing := by
  cases i <;> simp_all [Instr.mnemonic, Instr.operand]

/-- Everything `exec` can answer: a next state of one of the five handlers' shapes (R95), the address of a store being
that of its operand. -/
theorem exec_cases (i : Instr) (s : State) :
    (i.mnemonic = .lda ∧ ∃ v, operandValue i.operand s.beginHandler = some v ∧
      exec i s = .next { s with
        a := v, p := setZN s.p v, pc := s.pc + BitVec.ofNat 16 i.length, pcBefore := s.pc + 1 }) ∨
    (i.mnemonic = .sta ∧ ∃ addr, operandAddress i.operand s.beginHandler = some addr ∧
      exec i s = .next { s with
        mem := s.mem.write addr s.a, pc := s.pc + BitVec.ofNat 16 i.length, pcBefore := s.pc + 1 }) ∨
    (i = .tax ∧ exec i s = .next { s with x := s.a, p := setZN s.p s.a, pc := s.pc + 1, pcBefore := s.pc + 1 }) ∨
    (i = .inx ∧
      exec i s = .next { s with x := s.x + 1, p := setZN s.p (s.x + 1), pc := s.pc + 1, pcBefore := s.pc + 1 }) ∨
    (i = .brk ∧ exec i s = .next { s with pc := s.pc + 1, pcBefore := s.pc + 1, runState := .halted }) := by
  cases hm : i.mnemonic
  case lda =>
    obtain ⟨v, hv⟩ := operandValue_isSome (operand_ne_none (.inl hm)) s.beginHandler
    exact .inl ⟨rfl, v, hv, (exec_of_lda hm s).trans (loadAccumulator_of_value hv)⟩
  case sta =>
    obtain ⟨addr, ha⟩ := operandAddress_isSome (operand_ne_none (.inr hm)) s.beginHandler
    exact .inr (.inl ⟨rfl, addr, ha, (exec_of_sta hm s).trans (storeAccumulator_of_address ha)⟩)
  case tax =>
    obtain rfl : i = .tax := by cases i <;> first | rfl | cases hm
    refine .inr (.inr (.inl ⟨rfl, ?_⟩))
    simp only [exec, execTax]
    rw [advance_handler (s := s) (h := s.beginHandler.transferAToX) (by simp) (by simp)]
    rfl
  case inx =>
    obtain rfl : i = .inx := by cases i <;> first | rfl | cases hm
    refine .inr (.inr (.inr (.inl ⟨rfl, ?_⟩)))
    simp only [exec, execInx]
    rw [advance_handler (s := s) (h := s.beginHandler.incrementX) (by simp) (by simp)]
    rfl
  case brk =>
    obtain rfl : i = .brk := by cases i <;> first | rfl | cases hm
    exact .inr (.inr (.inr (.inr ⟨rfl, rfl⟩)))

/-- Everything a step can do: it stops where there is no step, raises UnrecognizedOpcode, or executes what it fetched. -/
theorem step_cases (s : State) :
    (s.runState = .halted ∧ step s = .fault .noStepHalted) ∨
    (s.runState = .faulted ∧ step s = .fault .noStepFaulted) ∨
    (s.runState = .ready ∧ ∃ e, fetch s = .error e ∧ step s = unrecognizedAtPc s) ∨
    (s.runState = .ready ∧ ∃ i, fetch s = .ok i ∧ step s = exec i s) := by
  unfold step
  cases hr : s.runState
  · cases hf : fetch s with
    | error e => exact .inr (.inr (.inl ⟨rfl, e, rfl, rfl⟩))
    | ok i => exact .inr (.inr (.inr ⟨rfl, i, rfl, rfl⟩))
  · exact .inl ⟨rfl, rfl⟩
  · exact .inr (.inl ⟨rfl, rfl⟩)

/-- Reset taken on the machine that power-on leaves gives `State.reset` (R201, vector V124). -/
theorem resetRequest_powerOn : resetRequest State.powerOn = .next State.reset := by
  rfl

end Sys2Proof.Laws
end

