-- ==== Sys2Proof/Laws/Fetch.lean ====
section
/-!
SUPPORT. What a fetch can find, said once: no row, or the instruction of the row with the operand that the resolver reads
at the pc after the opcode.
-/

namespace Sys2Proof.Laws

open Sys2Proof.Machine

/-- The bytes of a row's instruction decode to it: its mnemonic and length are the row's, its operand is the one its mode
reads after the opcode (R72, R73, R78). -/
theorem decode_bytesAt_of_row :
    ∀ row ∈ opcodeTable, ∀ s : State, row.opcode = s.mem.read s.pc →
      ∃ i, decode (s.mem.bytesAt s.pc row.length) = .ok (i, []) ∧ some i.mnemonic = row.mnemonic ∧
        i.operand = readOperand row.mode s.advancePastOpcode ∧ i.opcode = row.opcode ∧ i.length = row.length := by
  intro row hr s ho
  simp only [opcodeTable, List.mem_cons, List.not_mem_nil, or_false] at hr
  rcases hr with rfl | rfl | rfl | rfl | rfl | rfl | rfl | rfl | rfl | rfl | rfl | rfl | rfl | rfl | rfl | rfl | rfl | rfl <;>
    (simp only [Memory.bytesAt, ← ho]
     exact ⟨_, rfl, rfl, rfl, rfl, rfl⟩)

/-- A fetch at an opcode byte with a row finds that row's instruction (R93). -/
theorem fetch_of_row {s : State} {row : Row} (h : lookupOpcode (s.mem.read s.pc) = some row) :
    ∃ i, fetch s = .ok i ∧ some i.mnemonic = row.mnemonic ∧ i.operand = readOperand row.mode s.advancePastOpcode ∧
      i.opcode = s.mem.read s.pc ∧ i.length = row.length := by
  obtain ⟨hmem, hop⟩ := lookupRow_inv h
  obtain ⟨i, hd, hm, ho, hc, hl⟩ := decode_bytesAt_of_row row hmem s hop
  exact ⟨i, by simp only [fetch, fetchOpcode, h, hd], hm, ho, hc.trans hop, hl⟩

/-- A fetch at an opcode byte without a row rejects it (R76). -/
theorem fetch_of_no_row {s : State} (h : lookupOpcode (s.mem.read s.pc) = none) :
    fetch s = .error (.unrecognizedOpcode (s.mem.read s.pc)) := by
  simp only [fetch, fetchOpcode, h]

end Sys2Proof.Laws
end

