-- ==== Sys2Proof/Laws/Flags.lean ====
section
/-!
SUPPORT. The status computation on the reserved bits and on legal status bytes.
-/

namespace Sys2Proof.Laws

open Sys2Proof.Machine

/-- `SetZN` on a byte whose reserved bits are clear leaves a legal status byte (R16). -/
theorem setZN_legal {p : Byte} (h : LegalStatus p) (v : Byte) : LegalStatus (setZN p v) := by
  by_cases h0 : v = 0
  · subst h0
    rcases h with rfl | rfl | rfl <;> decide
  · unfold setZN
    rw [if_neg h0]
    cases v.getLsbD 7 <;> rcases h with rfl | rfl | rfl <;> decide

end Sys2Proof.Laws
end

