-- ==== Sys2Proof/Laws/Host.lean ====
section
/-!
SUPPORT. What each operation of the host can answer.
-/

namespace Sys2Proof.Laws

open Sys2Proof.Machine

/-- A reset answers the cleared state or, in Faulted, a refusal (R201, R203). -/
theorem resetRequest_cases (s : State) :
    (s.runState = .faulted ∧ resetRequest s = .refused .resetWhileFaulted) ∨
    (s.runState ≠ .faulted ∧ resetRequest s = .next { s with
      a := 0, x := 0, y := 0, p := 0, pc := s.mem.read16 Config.resetVector, runState := .ready }) := by
  unfold resetRequest
  cases hr : s.runState
  · exact .inr ⟨by simp, rfl⟩
  · exact .inr ⟨by simp, rfl⟩
  · exact .inl ⟨rfl, rfl⟩

/-- A load changes memory alone, or is refused (R204, R205). -/
theorem loadAt_cases (loadAddress : Address) (program : List Byte) (s : State) :
    loadAt loadAddress program s
        = .next (s.setMem ((s.mem.writeBytes loadAddress program).write16 Config.resetVector loadAddress)) ∨
      loadAt loadAddress program s = .refused .loadTooLarge := by
  unfold loadAt
  split
  · exact .inl rfl
  · exact .inr rfl

/-- A run takes no step from a state that is not Ready (R98). -/
theorem run_of_not_ready {s : State} (h : s.runState ≠ .ready) (n : Nat) : run n s = s := by
  cases n with
  | zero => rfl
  | succ n => cases hr : s.runState <;> simp_all [run]

end Sys2Proof.Laws
end

