-- ==== Sys2Proof/Laws/Memory.lean ====
section
/-!
SUPPORT. The laws of memory: a read after a write, for every list of cells, canonical or not, and that every operation
that writes memory keeps the canonical form.
-/

namespace Sys2Proof.Machine

theorem Memory.lookup_erase_self (k : Nat) (m : Memory) : Memory.lookup k (Memory.erase k m) = Memory.unlisted := by
  induction m with
  | nil => rfl
  | cons c m ih =>
    by_cases h : c.1 = k
    · simpa [Memory.erase, h] using ih
    · simpa [Memory.erase, h, Memory.lookup] using ih

theorem Memory.lookup_erase_ne {j k : Nat} (hjk : j ≠ k) (m : Memory) :
    Memory.lookup j (Memory.erase k m) = Memory.lookup j m := by
  induction m with
  | nil => rfl
  | cons c m ih =>
    by_cases h : c.1 = k
    · have hj : ¬ c.1 = j := fun e => hjk (e.symm.trans h)
      simpa [Memory.erase, h, hj, Memory.lookup, Ne.symm hjk] using ih
    · by_cases hj : c.1 = j
      · simp [Memory.erase, hj, Memory.lookup, hjk]
      · simpa [Memory.erase, h, hj, Memory.lookup] using ih

theorem Memory.lookup_insert_ne {j k : Nat} (hjk : j ≠ k) (v : Byte) (m : Memory) :
    Memory.lookup j (Memory.insert k v m) = Memory.lookup j m := by
  induction m with
  | nil => simp [Memory.insert, Memory.lookup, Ne.symm hjk]
  | cons c m ih =>
    unfold Memory.insert
    split
    · simp [Memory.lookup, Ne.symm hjk]
    · simp [Memory.lookup, ih]

theorem Memory.lookup_insert_erase (k : Nat) (v : Byte) (m : Memory) :
    Memory.lookup k (Memory.insert k v (Memory.erase k m)) = v := by
  induction m with
  | nil => simp [Memory.erase, Memory.insert, Memory.lookup]
  | cons c m ih =>
    by_cases h : c.1 = k
    · simpa [Memory.erase, h] using ih
    · have hc : Memory.erase k (c :: m) = c :: Memory.erase k m := by simp [Memory.erase, h]
      rw [hc]
      unfold Memory.insert
      split
      · simp [Memory.lookup]
      · simpa [Memory.lookup, h] using ih

/-- A read of the cell just written gives the byte written (R50). -/
@[simp] theorem Memory.read_write_same (m : Memory) (a : Address) (v : Byte) : (m.write a v).read a = v := by
  unfold Memory.write Memory.read
  split
  · next h => rw [Memory.lookup_erase_self, h]
  · exact Memory.lookup_insert_erase _ _ _

/-- A write leaves every other cell alone (R42). -/
theorem Memory.read_write_ne (m : Memory) {a b : Address} (h : b ≠ a) (v : Byte) :
    (m.write a v).read b = m.read b := by
  have hn : b.toNat ≠ a.toNat := fun e => h (BitVec.eq_of_toNat_eq e)
  unfold Memory.write Memory.read
  split
  · exact Memory.lookup_erase_ne hn m
  · rw [Memory.lookup_insert_ne hn, Memory.lookup_erase_ne hn]

/-- Both cases at once. -/
theorem Memory.read_write (m : Memory) (a b : Address) (v : Byte) :
    (m.write a v).read b = if b = a then v else m.read b := by
  split
  · next h => rw [h, Memory.read_write_same]
  · next h => exact Memory.read_write_ne m h v

theorem Memory.wf_erase {m : Memory} (h : m.wf) (k : Nat) : Memory.wf (Memory.erase k m) :=
  ⟨h.1.filter _, fun c hc => h.2 c (List.mem_of_mem_filter hc)⟩

theorem Memory.mem_insert {k : Nat} {v : Byte} {m : Memory} {c : Host.Cell} (h : c ∈ Memory.insert k v m) :
    c = (k, v) ∨ c ∈ m := by
  induction m with
  | nil => simpa [Memory.insert] using h
  | cons d m ih =>
    unfold Memory.insert at h
    split at h
    · simpa using h
    · rcases List.mem_cons.1 h with h | h
      · exact .inr (h ▸ List.mem_cons_self)
      · exact (ih h).imp id (List.mem_cons_of_mem d)

/-- An entry put into a canonical list that has none of its address keeps the list canonical. -/
theorem Memory.wf_insert {m : Memory} (h : m.wf) {k : Nat} {v : Byte} (hk : k < Config.memSize)
    (hv : v ≠ Memory.unlisted) (hn : ∀ c ∈ m, c.1 ≠ k) : Memory.wf (Memory.insert k v m) := by
  refine ⟨?_, fun c hc => (Memory.mem_insert hc).elim (fun e => e ▸ ⟨hk, hv⟩) (h.2 c)⟩
  have hp := h.1
  clear h
  induction m with
  | nil => simp [Memory.insert]
  | cons d m ih =>
    have hd := List.pairwise_cons.1 hp
    unfold Memory.insert
    split
    · next hlt =>
      refine List.pairwise_cons.2 ⟨fun c hc => ?_, hp⟩
      rcases List.mem_cons.1 hc with e | hc
      · exact e ▸ hlt
      · exact Nat.lt_trans hlt (hd.1 c hc)
    · next hle =>
      refine List.pairwise_cons.2 ⟨fun c hc => ?_, ih (fun c hc => hn c (List.mem_cons_of_mem d hc)) hd.2⟩
      rcases Memory.mem_insert hc with e | hc
      · have := hn d List.mem_cons_self
        subst e
        dsimp only
        omega
      · exact hd.1 c hc

/-- A write keeps the canonical form. -/
theorem Memory.wf_write {m : Memory} (h : m.wf) (a : Address) (v : Byte) : (m.write a v).wf := by
  unfold Memory.write
  split
  · exact Memory.wf_erase h _
  · next hv =>
    refine Memory.wf_insert (Memory.wf_erase h _) a.isLt hv (fun c hc => ?_)
    simpa using (List.mem_filter.1 hc).2

/-- A 16-bit write keeps the canonical form. -/
theorem Memory.wf_write16 {m : Memory} (h : m.wf) (a v : Address) : (m.write16 a v).wf :=
  Memory.wf_write (Memory.wf_write h _ _) _ _

/-- Writing a list of bytes keeps the canonical form. -/
theorem Memory.wf_writeBytes {m : Memory} (h : m.wf) (a : Address) (bs : List Byte) : (m.writeBytes a bs).wf := by
  induction bs generalizing m a with
  | nil => exact h
  | cons b bs ih => exact ih (Memory.wf_write h a b) _

/-- What a cell reads after bytes were written at ascending addresses that do not pass the top of memory (R204). -/
theorem Memory.read_writeBytes (m : Memory) (a : Address) (bs : List Byte) (h : a.toNat + bs.length ≤ 65536)
    (x : Address) :
    (m.writeBytes a bs).read x =
      if a.toNat ≤ x.toNat ∧ x.toNat < a.toNat + bs.length then bs.getD (x.toNat - a.toNat) 0 else m.read x := by
  induction bs generalizing m a with
  | nil => rw [if_neg (by simp)]; rfl
  | cons b bs ih =>
    simp only [Memory.writeBytes, List.length_cons] at *
    have hxa : x = a ↔ x.toNat = a.toNat := ⟨congrArg _, BitVec.eq_of_toNat_eq⟩
    cases bs with
    | nil =>
      simp only [Memory.writeBytes, List.length_nil, Memory.read_write, hxa]
      by_cases hx : x.toNat = a.toNat
      · rw [if_pos hx, if_pos (by omega), hx, Nat.sub_self]; rfl
      · rw [if_neg hx, if_neg (by omega)]
    | cons c cs =>
      have ha : (inc16 a).toNat = a.toNat + 1 := by simp [inc16] at h ⊢; omega
      rw [ih _ _ (by omega), ha, Memory.read_write]
      by_cases hx : x.toNat = a.toNat
      · rw [if_neg (by omega), if_pos (hxa.2 hx), if_pos (by simp; omega), hx, Nat.sub_self]; rfl
      · rw [if_neg (fun e => hx (hxa.1 e))]
        by_cases hc : a.toNat + 1 ≤ x.toNat ∧ x.toNat < a.toNat + 1 + (c :: cs).length
        · rw [if_pos hc, if_pos (by omega), show x.toNat - a.toNat = (x.toNat - (a.toNat + 1)) + 1 by omega,
            List.getD_cons_succ]
        · rw [if_neg hc, if_neg (by omega)]

/-- In canonical memory a listed cell is what its address reads as. -/
theorem Memory.lookup_of_mem {m : Memory} (h : m.wf) {c : Host.Cell} (hc : c ∈ m) : Memory.lookup c.1 m = c.2 := by
  have hp := h.1
  clear h
  induction m with
  | nil => cases hc
  | cons d m ih =>
    have hd := List.pairwise_cons.1 hp
    rcases List.mem_cons.1 hc with e | hc
    · simp [Memory.lookup, e]
    · have := hd.1 c hc
      have hne : ¬ d.1 = c.1 := by omega
      simpa [Memory.lookup, hne] using ih hc hd.2

/-- The memory of the reset state is canonical. -/
theorem Memory.wf_reset : State.reset.mem.wf := by decide

end Sys2Proof.Machine
end

