-- ==== Sys2Proof/Laws/PerInstr.lean ====
section
/-!
SUPPORT. Statements about every instruction as syntax, one lemma for each constructor.
-/

namespace Sys2Proof.Laws

/-- The opcode table gives the instruction's opcode byte exactly one row: the one with its mnemonic, its mode and its
length (spec/30_encoding.md R74, R75), and the instruction is the one that row stands for. -/
def TableRow.Statement (i : Instr) : Prop :=
  lookupOpcode i.opcode = some ⟨i.opcode, some i.mnemonic, i.operand.mode, i.length⟩ ∧
    assemble i.mnemonic i.operand = some i ∧ i.wellFormed = true

theorem TableRow.ldaImmediate (d8 : Byte) : TableRow.Statement (.ldaImmediate d8) := ⟨rfl, rfl, rfl⟩

theorem TableRow.ldaZeroPage (d8 : Byte) : TableRow.Statement (.ldaZeroPage d8) := ⟨rfl, rfl, rfl⟩

theorem TableRow.ldaZeroPageX (d8 : Byte) : TableRow.Statement (.ldaZeroPageX d8) := ⟨rfl, rfl, rfl⟩

theorem TableRow.ldaAbsolute (a16 : Address) : TableRow.Statement (.ldaAbsolute a16) := ⟨rfl, rfl, rfl⟩

theorem TableRow.ldaAbsoluteX (a16 : Address) : TableRow.Statement (.ldaAbsoluteX a16) := ⟨rfl, rfl, rfl⟩

theorem TableRow.ldaAbsoluteY (a16 : Address) : TableRow.Statement (.ldaAbsoluteY a16) := ⟨rfl, rfl, rfl⟩

theorem TableRow.ldaIndirectX (d8 : Byte) : TableRow.Statement (.ldaIndirectX d8) := ⟨rfl, rfl, rfl⟩

theorem TableRow.ldaIndirectY (d8 : Byte) : TableRow.Statement (.ldaIndirectY d8) := ⟨rfl, rfl, rfl⟩

theorem TableRow.staZeroPage (d8 : Byte) : TableRow.Statement (.staZeroPage d8) := ⟨rfl, rfl, rfl⟩

theorem TableRow.staZeroPageX (d8 : Byte) : TableRow.Statement (.staZeroPageX d8) := ⟨rfl, rfl, rfl⟩

theorem TableRow.staAbsolute (a16 : Address) : TableRow.Statement (.staAbsolute a16) := ⟨rfl, rfl, rfl⟩

theorem TableRow.staAbsoluteX (a16 : Address) : TableRow.Statement (.staAbsoluteX a16) := ⟨rfl, rfl, rfl⟩

theorem TableRow.staAbsoluteY (a16 : Address) : TableRow.Statement (.staAbsoluteY a16) := ⟨rfl, rfl, rfl⟩

theorem TableRow.staIndirectX (d8 : Byte) : TableRow.Statement (.staIndirectX d8) := ⟨rfl, rfl, rfl⟩

theorem TableRow.staIndirectY (d8 : Byte) : TableRow.Statement (.staIndirectY d8) := ⟨rfl, rfl, rfl⟩

theorem TableRow.tax : TableRow.Statement .tax := ⟨rfl, rfl, rfl⟩

theorem TableRow.inx : TableRow.Statement .inx := ⟨rfl, rfl, rfl⟩

theorem TableRow.brk : TableRow.Statement .brk := ⟨rfl, rfl, rfl⟩

end Sys2Proof.Laws
end

