-- ==== Sys2Proof/Tests/Slice0.lean ====
section
/-!
SUPPORT. The model's own tests. Expected results are those of spec/95_test_vectors.md (V<n>, E<n>, P<n>) or of the encoding
column of spec/30_encoding.md R74; after them, for every statement with hypotheses, a witness that meets them all.
-/

namespace Sys2Proof.Tests

open Sys2Proof.Machine

/-- Memory with some cells written. -/
def cells (l : List (Address × Byte)) : Memory :=
  l.foldl (fun m c => m.write c.1 c.2) []

/-- The state of the single-step vectors: reset, the instruction's bytes at 0x8000, further cells, the pc at 0x8000. -/
def at8000 (bytes : List Byte) (l : List (Address × Byte)) : State :=
  { State.reset with pc := 0x8000, mem := (cells l).writeBytes 0x8000 bytes }

/-- The next state, where there is one. -/
def nextOf : Answer → Option State
  | .next s => some s
  | .fault _ => none
  | .refused _ => none

/-- The refusal, where there is one. -/
def refusalOf : Answer → Option Refusal
  | .refused r => some r
  | .next _ => none
  | .fault _ => none

/-- A, P and the pc of a state. -/
def apPc (s : State) : Byte × Byte × Address := (s.a, s.p, s.pc)

/-- X, P and the pc of a state. -/
def xpPc (s : State) : Byte × Byte × Address := (s.x, s.p, s.pc)

/-! ### Well-formedness: an ill-formed term for each check -/

/-- R123: LDA has no ZeroPage,Y row. -/
theorem test_row_lda_zeroPageY_refused : Row.wellFormed ⟨0xB7, some .lda, .zeroPageY, 2⟩ = false := by decide

/-- R172: an LDA row with NoneAddressing is malformed. -/
theorem test_row_lda_none_refused : Row.wellFormed ⟨0xA9, some .lda, .noneAddressing, 1⟩ = false := by decide

/-- R139: STA has no Immediate form. -/
theorem test_row_sta_immediate_refused : Row.wellFormed ⟨0x89, some .sta, .immediate, 2⟩ = false := by decide

/-- R123: TAX carries NoneAddressing. -/
theorem test_row_tax_immediate_refused : Row.wellFormed ⟨0xAA, some .tax, .immediate, 2⟩ = false := by decide

/-- R73: Absolute has length 3. -/
theorem test_row_wrong_length_refused : Row.wellFormed ⟨0xAD, some .lda, .absolute, 2⟩ = false := by decide

/-- R77: a row without handler is malformed. -/
theorem test_row_without_handler_refused : Row.wellFormed ⟨0xEA, none, .noneAddressing, 1⟩ = false := by decide

/-- R75: an opcode byte has one row. -/
theorem test_table_double_opcode_refused :
    tableWellFormed [⟨0xAA, some .tax, .noneAddressing, 1⟩, ⟨0xAA, some .inx, .noneAddressing, 1⟩] = false := by decide

/-- R79: every instruction is well formed; the operand plays no part. -/
theorem test_instr_wellFormed : (Instr.staIndirectY 0xFF).wellFormed = true := by decide

/-! ### Decoding: for each constructor a word written out from the encoding column of R74 -/

theorem test_decode_ldaImmediate : decode [0b10101001, 0b01000010] = .ok (.ldaImmediate 0x42, []) := by decide

theorem test_decode_ldaZeroPage : decode [0b10100101, 0b01000010] = .ok (.ldaZeroPage 0x42, []) := by decide

theorem test_decode_ldaZeroPageX : decode [0b10110101, 0b01000010] = .ok (.ldaZeroPageX 0x42, []) := by decide

theorem test_decode_ldaAbsolute : decode [0b10101101, 0b00110100, 0b00010010] = .ok (.ldaAbsolute 0x1234, []) := by decide

theorem test_decode_ldaAbsoluteX : decode [0b10111101, 0b00110100, 0b00010010] = .ok (.ldaAbsoluteX 0x1234, []) := by decide

theorem test_decode_ldaAbsoluteY : decode [0b10111001, 0b00110100, 0b00010010] = .ok (.ldaAbsoluteY 0x1234, []) := by decide

theorem test_decode_ldaIndirectX : decode [0b10100001, 0b01000010] = .ok (.ldaIndirectX 0x42, []) := by decide

theorem test_decode_ldaIndirectY : decode [0b10110001, 0b01000010] = .ok (.ldaIndirectY 0x42, []) := by decide

theorem test_decode_staZeroPage : decode [0b10000101, 0b01000010] = .ok (.staZeroPage 0x42, []) := by decide

theorem test_decode_staZeroPageX : decode [0b10010101, 0b01000010] = .ok (.staZeroPageX 0x42, []) := by decide

theorem test_decode_staAbsolute : decode [0b10001101, 0b00110100, 0b00010010] = .ok (.staAbsolute 0x1234, []) := by decide

theorem test_decode_staAbsoluteX : decode [0b10011101, 0b00110100, 0b00010010] = .ok (.staAbsoluteX 0x1234, []) := by decide

theorem test_decode_staAbsoluteY : decode [0b10011001, 0b00110100, 0b00010010] = .ok (.staAbsoluteY 0x1234, []) := by decide

theorem test_decode_staIndirectX : decode [0b10000001, 0b01000010] = .ok (.staIndirectX 0x42, []) := by decide

theorem test_decode_staIndirectY : decode [0b10010001, 0b01000010] = .ok (.staIndirectY 0x42, []) := by decide

theorem test_decode_tax : decode [0b10101010, 0x77] = .ok (.tax, [0x77]) := by decide

theorem test_decode_inx : decode [0b11101000, 0x77] = .ok (.inx, [0x77]) := by decide

theorem test_decode_brk : decode [0b00000000, 0x77] = .ok (.brk, [0x77]) := by decide

/-- V110: 0xEA is illegal, not a no-operation. -/
theorem test_decode_illegal : decode [0xEA, 0x00] = .error (.unrecognizedOpcode 0xEA) := by decide

/-- A word as spec/opcode_table.json numbers it: AD 34 12. -/
theorem test_decodeTableWord : decodeTableWord 24 0x1234AD = some (.ldaAbsolute 0x1234) := by decide

/-- With the operand bytes' bits not given they are zero. -/
theorem test_decodeTableWord_short : decodeTableWord 8 0xFFA9 = some (.ldaImmediate 0x00) := by decide

/-- A placed word is what the next step runs: LDA #$80. -/
theorem test_withFetchWord :
    (nextOf (step (State.reset.withFetchWord 16 0x80A9))).map apPc = some (0x80, 0x80, 0x0002) := by decide

/-! ### Flags, memory, resolver -/

/-- V9: the reserved bits are kept. -/
theorem test_setZN_keeps_reserved : setZN 0xFF 0x01 = 0x7D := by decide

/-- V7: N is cleared, not left. -/
theorem test_setZN_clears_n : setZN 0x80 0x00 = 0x02 := by decide

/-- V22: the second byte wraps to 0x0000. -/
theorem test_read16_wraps : (cells [(0xFFFF, 0x34), (0x0000, 0x12)]).read16 0xFFFF = 0x1234 := by decide

/-- V23: the same for the store; the list is in canonical form. -/
theorem test_write16_wraps : Memory.write16 [] 0xFFFF 0xABCD = [(0x0000, 0xAB), (0xFFFF, 0xCD)] := by decide

/-- Writing what an unlisted cell reads as removes the entry. -/
theorem test_write_zero_removes : (cells [(0x0010, 0x55)]).write 0x0010 0x00 = [] := by decide

/-- V38: ZeroPage,Y, which no opcode reaches. -/
theorem test_ea_zeroPageY :
    effectiveAddress .zeroPageY { at8000 [0xF0] [] with y := 0x20 } = some 0x0010 := by decide

/-- V48: the pointer at 0xFF has its high byte at 0x0000, not 0x0100. -/
theorem test_ea_indirectX_wraps :
    effectiveAddress .indirectX { at8000 [0xFC] [(0x00FF, 0x00), (0x0000, 0x03), (0x0100, 0x77)] with x := 0x03 }
      = some 0x0300 := by decide

/-- V52: the sum with Y wraps modulo 65536. -/
theorem test_ea_indirectY_wraps :
    effectiveAddress .indirectY { at8000 [0x10] [(0x0010, 0xFF), (0x0011, 0xFF)] with y := 0x02 } = some 0x0001 := by
  decide

/-- V53 -/
theorem test_ea_none : effectiveAddress .noneAddressing (at8000 [] []) = none := by decide

/-! ### Single steps -/

/-- V61 -/
theorem test_lda_imm_zero :
    (nextOf (step { at8000 [0xA9, 0x00] [] with a := 0xEE, p := 0x80 })).map apPc = some (0x00, 0x02, 0x8002) := by decide

/-- V62 -/
theorem test_lda_imm_negative :
    (nextOf (step { at8000 [0xA9, 0xFF] [] with p := 0x02 })).map apPc = some (0xFF, 0x80, 0x8002) := by decide

/-- V63 -/
theorem test_lda_zp :
    (nextOf (step (at8000 [0xA5, 0x10] [(0x0010, 0x55)]))).map apPc = some (0x55, 0x00, 0x8002) := by decide

/-- V64 -/
theorem test_lda_zpx :
    (nextOf (step { at8000 [0xB5, 0x10] [(0x0014, 0x9C)] with x := 0x04 })).map apPc = some (0x9C, 0x80, 0x8002) := by decide

/-- V65 -/
theorem test_lda_zpx_wraps :
    (nextOf (step { at8000 [0xB5, 0xFF] [(0x0001, 0x7E), (0x0101, 0x33)] with x := 0x02 })).map apPc = some (0x7E, 0x00, 0x8002) := by decide

/-- V67 -/
theorem test_lda_abs_own_opcode :
    (nextOf (step (at8000 [0xAD, 0x00, 0x80] []))).map apPc = some (0xAD, 0x80, 0x8003) := by decide

/-- V66 -/
theorem test_lda_abs_zero :
    (nextOf (step { at8000 [0xAD, 0x00, 0x02] [] with a := 0x11 })).map apPc = some (0x00, 0x02, 0x8003) := by decide

/-- V68 -/
theorem test_lda_absx :
    (nextOf (step { at8000 [0xBD, 0xF0, 0x12] [(0x1310, 0x7F)] with x := 0x20 })).map apPc = some (0x7F, 0x00, 0x8003) := by decide

/-- V69 -/
theorem test_lda_absx_wraps :
    (nextOf (step { at8000 [0xBD, 0xFF, 0xFF] [(0x0000, 0x80)] with x := 0x01 })).map apPc = some (0x80, 0x80, 0x8003) := by decide

/-- V70 -/
theorem test_lda_absy :
    (nextOf (step (at8000 [0xB9, 0x08, 0x21] [(0x2108, 0x01)]))).map apPc = some (0x01, 0x00, 0x8003) := by decide

/-- V71 -/
theorem test_lda_indx :
    (nextOf (step { at8000 [0xA1, 0x20] [(0x0024, 0x74), (0x0025, 0x20), (0x2074, 0xEE)] with x := 0x04 })).map apPc = some (0xEE, 0x80, 0x8002) := by decide

/-- V72 -/
theorem test_lda_indy_wraps :
    (nextOf (step (at8000 [0xB1, 0xFF] [(0x00FF, 0x00), (0x0000, 0x03), (0x0300, 0x99)]))).map apPc = some (0x99, 0x80, 0x8002) := by decide

/-- V73 -/
theorem test_sta_zp :
    (nextOf (step { at8000 [0x85, 0x10] [] with a := 0xC0, p := 0x80 })).map (fun s => (s.mem.read 0x0010, s.p, s.pc)) = some (0xC0, 0x80, 0x8002) := by decide

/-- V74 -/
theorem test_sta_zp_zero_no_flag :
    (nextOf (step { at8000 [0x85, 0x10] [(0x0010, 0xFF)] with a := 0x00, p := 0x80 })).map (fun s => (s.mem.read 0x0010, s.p, s.pc)) = some (0x00, 0x80, 0x8002) := by decide

/-- V75 -/
theorem test_sta_zpx_wraps :
    (nextOf (step { at8000 [0x95, 0xFF] [] with a := 0x7E, x := 0x02 })).map (fun s => (s.mem.read 0x0001, s.mem.read 0x0101, s.p, s.pc)) = some (0x7E, 0x00, 0x00, 0x8002) := by decide

/-- V77 -/
theorem test_sta_abs_own_operand :
    (nextOf (step { at8000 [0x8D, 0x01, 0x80] [] with a := 0x42 })).map (fun s => (s.mem.read 0x8001, s.mem.read 0x8002, s.p, s.pc)) = some (0x42, 0x80, 0x00, 0x8003) := by decide

/-- V78 -/
theorem test_sta_absx :
    (nextOf (step { at8000 [0x9D, 0xFF, 0x02] [] with a := 0x7E, x := 0x02 })).map (fun s => (s.mem.read 0x0301, s.p, s.pc)) = some (0x7E, 0x00, 0x8003) := by decide

/-- V79 -/
theorem test_sta_absy :
    (nextOf (step { at8000 [0x99, 0x00, 0x04] [] with a := 0x11 })).map (fun s => (s.mem.read 0x0400, s.p, s.pc)) = some (0x11, 0x00, 0x8003) := by decide

/-- V80 -/
theorem test_sta_indx_wraps :
    (nextOf (step { at8000 [0x81, 0xFC] [(0x00FF, 0x00), (0x0000, 0x03)] with a := 0x99, x := 0x03 })).map (fun s => (s.mem.read 0x0300, s.p, s.pc)) = some (0x99, 0x00, 0x8002) := by decide

/-- V81 -/
theorem test_sta_indy :
    (nextOf (step { at8000 [0x91, 0x40] [(0x0041, 0x06)] with a := 0x5A })).map (fun s => (s.mem.read 0x0600, s.p, s.pc)) = some (0x5A, 0x00, 0x8002) := by decide

/-- V82 -/
theorem test_sta_indy_own_pointer :
    (nextOf (step { at8000 [0x91, 0x40] [(0x0040, 0x40), (0x0041, 0x00)] with a := 0x5A })).map (fun s => (s.mem.read 0x0040, s.mem.read 0x0041, s.p, s.pc)) = some (0x5A, 0x00, 0x00, 0x8002) := by decide

/-- V83 -/
theorem test_tax :
    (nextOf (step { at8000 [0xAA] [] with a := 0x0A, x := 0xFF, p := 0x80 })).map xpPc = some (0x0A, 0x00, 0x8001) := by decide

/-- V84 -/
theorem test_tax_zero :
    (nextOf (step { at8000 [0xAA] [] with x := 0x33 })).map xpPc = some (0x00, 0x02, 0x8001) := by decide

/-- V88 -/
theorem test_inx_wraps :
    (nextOf (step { at8000 [0xE8] [] with x := 0xFF, p := 0x80 })).map xpPc = some (0x00, 0x02, 0x8001) := by decide

/-- V87 -/
theorem test_inx_negative :
    (nextOf (step { at8000 [0xE8] [] with x := 0x7F })).map xpPc = some (0x80, 0x80, 0x8001) := by decide

/-- V90 -/
theorem test_brk :
    (nextOf (step { at8000 [0x00] [] with a := 0x12, x := 0x34, p := 0x80 })).map (fun s => (s.runState, s.a, s.x, s.p, s.pc)) = some (.halted, 0x12, 0x34, 0x80, 0x8001) := by decide

/-- V101: a three-byte instruction straddles the top of memory. -/
theorem test_pc_wraps :
    (nextOf (step { State.reset with
      pc := 0xFFFE, mem := cells [(0xFFFE, 0xAD), (0xFFFF, 0x34), (0x0000, 0x12), (0x1234, 0x77)] })).map apPc
      = some (0x77, 0x00, 0x0001) := by decide

/-- V110: the fault of a 6502 NOP. -/
theorem test_illegal_opcode :
    (stateLeft (step { at8000 [0xEA] [] with a := 0x01, x := 0x02, p := 0x80 })).map State.ports
      = some { regA := 0x01, regX := 0x02, regY := 0x00, status := 0x80, pc := 0x8001, halted := false, faulted := true,
               faultKind := 1, faultOpcode := 0xEA, faultPc := 0x8000, faultMode := 0, faultMnemonic := 0 } := by decide

/-- V114: the incremented pc wraps even in a fault. -/
theorem test_illegal_opcode_at_top :
    (stateLeft (step { State.reset with pc := 0xFFFF, mem := cells [(0xFFFF, 0xEA)] })).map
      (fun s => (s.fault.pc, s.pc)) = some (0xFFFF, 0x0000) := by decide

/-! ### Host operations -/

/-- V121, V122: load at 0x8000 and reset. -/
theorem test_load_then_reset :
    ((nextOf (loadAt 0x8000 [0xA9, 0x05, 0x00] State.powerOn)).bind (fun s => nextOf (resetRequest s))).map
      (fun s => (s.pc, s.mem)) = some (0x8000, [(0x8000, 0xA9), (0x8001, 0x05), (0xFFFD, 0x80)]) := by decide

/-- V126 at a smaller scale: an image that reaches 0xFFFD is overwritten there by the vector. -/
theorem test_load_vector_wins :
    (nextOf (loadAt 0xFFFB [0xE8, 0xE8, 0xE8, 0xE8, 0xE8] State.powerOn)).map (fun s => s.mem)
      = some [(0xFFFB, 0xE8), (0xFFFC, 0xFB), (0xFFFD, 0xFF), (0xFFFE, 0xE8), (0xFFFF, 0xE8)] := by decide

/-- V127 at a smaller scale: an oversize load is refused. -/
theorem test_load_too_large : refusalOf (loadAt 0xFFFF [0xE8, 0xE8] State.powerOn) = some .loadTooLarge := by decide

/-- V115: reset is not taken in Faulted. -/
theorem test_reset_in_faulted :
    refusalOf (resetRequest { State.reset with runState := .faulted }) = some .resetWhileFaulted := by decide

/-- P6: a step straight after power-on halts at pc 0x0001. -/
theorem test_run_after_powerOn : (run 5 State.powerOn).pc = 0x0001 := by decide

/-- E1: LDA #$05; BRK, run to its halt. -/
theorem test_run_E1 :
    (fun s => (s.runState, s.a, s.p, s.pc)) (run 5 (at8000 [0xA9, 0x05, 0x00] [])) = (.halted, 0x05, 0x00, 0x8003) := by
  decide

/-! ### Witnesses: a concrete state and operands that meet the hypotheses of each statement that has some -/

theorem witness_ResetRequest : State.reset.runState ≠ .faulted ∧
    ({ State.reset with runState := .halted } : State).runState ≠ .faulted := by decide

theorem witness_lda_next : (Instr.ldaImmediate 0x80).mnemonic = .lda ∧ exec (.ldaImmediate 0x80) State.reset
    = .next { State.reset with a := 0x80, p := 0x80, pc := 0x0002, pcBefore := 0x0001 } := ⟨rfl, rfl⟩

theorem witness_tax_next : Instr.tax.mnemonic = .tax ∧ exec .tax State.reset
    = .next { State.reset with p := 0x02, pc := 0x0001, pcBefore := 0x0001 } := ⟨rfl, rfl⟩

theorem witness_inx_next : Instr.inx.mnemonic = .inx ∧ exec .inx { State.reset with x := 0xFF }
    = .next { State.reset with p := 0x02, pc := 0x0001, pcBefore := 0x0001 } := ⟨rfl, rfl⟩

theorem witness_sta_next : (Instr.staZeroPage 0xFF).mnemonic = .sta ∧ exec (.staZeroPage 0xFF) { State.reset with a := 0x01 }
    = .next { State.reset with a := 0x01, mem := [(0x00FF, 0x01)], pc := 0x0002, pcBefore := 0x0001 } := ⟨rfl, rfl⟩

theorem witness_brk_next : Instr.brk.mnemonic = .brk ∧ exec .brk State.reset
    = .next { State.reset with pc := 0x0001, pcBefore := 0x0001, runState := .halted } := ⟨rfl, rfl⟩

theorem witness_DecodingAnEncoding : (Instr.ldaAbsolute 0xFFFF).wellFormed = true ∧ Instr.brk.wellFormed = true := by decide

theorem witness_EveryDecodedWord : decode [0xA9, 0xFF, 0x00] = .ok (.ldaImmediate 0xFF, [0x00]) := by decide

/-- The 18 legal bytes of R76. -/
def legalBytes : List Byte :=
  [0x00, 0x81, 0x85, 0x8D, 0x91, 0x95, 0x99, 0x9D, 0xA1, 0xA5, 0xA9, 0xAA, 0xAD, 0xB1, 0xB5, 0xB9, 0xBD, 0xE8]

theorem witness_OpcodesOutsideTheTable : 0x00 ∈ legalBytes ∧ 0xE8 ∈ legalBytes ∧ 0x01 ∉ legalBytes ∧ 0xFF ∉ legalBytes := by
  decide

theorem witness_StepRunsTheDecodedInstruction :
    let s : State := { State.reset with pc := 0xFFFE, mem := cells [(0xFFFE, 0xAD), (0xFFFF, 0x34), (0x0000, 0x12)] }
    s.runState = .ready ∧ (Instr.ldaAbsolute 0x1234).wellFormed = true ∧
      decode [s.mem.read s.pc, s.mem.read (s.pc + 1), s.mem.read (s.pc + 2)] = .ok (.ldaAbsolute 0x1234, []) := by decide

/-- A table with an LDA row and an STA row on NoneAddressing and a row without handler. -/
def malformedTable : List Row :=
  [⟨0x00, some .lda, .noneAddressing, 1⟩, ⟨0x01, some .sta, .noneAddressing, 1⟩, ⟨0x02, none, .noneAddressing, 1⟩]

theorem witness_MalformedRows_lda : State.reset.runState = .ready ∧
    lookupRow malformedTable (State.reset.mem.read State.reset.pc) = some ⟨0x00, some .lda, .noneAddressing, 1⟩ := by decide

theorem witness_MalformedRows_sta : (at8000 [0x01] []).runState = .ready ∧
    lookupRow malformedTable ((at8000 [0x01] []).mem.read 0x8000) = some ⟨0x01, some .sta, .noneAddressing, 1⟩ := by decide

theorem witness_MalformedRows_noHandler : (at8000 [0x02] []).runState = .ready ∧
    lookupRow malformedTable ((at8000 [0x02] []).mem.read 0x8000) = some ⟨0x02, none, .noneAddressing, 1⟩ := by decide

/-- The state that the illegal byte 0xEA leaves. -/
def afterEA : State :=
  { at8000 [0xEA] [] with
    pc := 0x8001, runState := .faulted,
    fault := { kind := .unrecognizedOpcode, opcode := 0xEA, pc := 0x8000, mode := 0, mnemonic := 0 } }

theorem witness_UnrecognizedOpcode : (at8000 [0xEA] []).runState = .ready ∧
    (at8000 [0xEA] []).mem.read (at8000 [0xEA] []).pc ∉ legalBytes := by decide

theorem witness_UnrecognizedOpcode_raised :
    step (at8000 [0xEA] []) = .fault (.unrecognizedOpcode afterEA) := rfl

theorem witness_FaultEntry_unrecognized :
    stepWith opcodeTable (at8000 [0xEA] []) = .fault (.unrecognizedOpcode afterEA) ∧
      (Fault.unrecognizedOpcode afterEA).left = some afterEA := ⟨rfl, rfl⟩

theorem witness_FaultEntry_unsupported : ∃ t : State,
    stepWith malformedTable State.reset = .fault (.unsupportedAddressingMode t) ∧
      (Fault.unsupportedAddressingMode t).left = some t := ⟨_, rfl, rfl⟩

theorem witness_NoStepOutsideReady : ({ State.reset with runState := .halted } : State).runState = .halted ∧
    ({ State.reset with runState := .faulted } : State).runState = .faulted ∧ State.reset.runState = .ready := by decide

theorem witness_StepOutcomes : (at8000 [0xA9, 0x80] []).runState = .ready ∧
    lookupOpcode ((at8000 [0xA9, 0x80] []).mem.read 0x8000) = some ⟨0xA9, some .lda, .immediate, 2⟩ ∧
    State.reset.runState = .ready ∧ State.reset.mem.read State.reset.pc = 0x00 ∧
    lookupOpcode ((at8000 [0xEA] []).mem.read 0x8000) = none := by decide

/-- A step with a next state, of BRK at the reset state. -/
theorem witness_step_next :
    step State.reset = .next { State.reset with pc := 0x0001, pcBefore := 0x0001, runState := .halted } := rfl

/-- A step with a next state, of an STA at the top of memory. -/
theorem witness_step_next_store : ∃ t : State,
    step { State.reset with pc := 0xFFFF, a := 0x07, mem := cells [(0xFFFF, 0x85), (0x0000, 0xFF)] } = .next t :=
  ⟨_, rfl⟩

theorem witness_sta_address : operandAddress (Instr.staZeroPage 0xFF).operand State.reset.beginHandler = some 0x00FF := rfl

theorem witness_LdaImmediate : (at8000 [0xA9] []).runState = .ready ∧
    (at8000 [0xA9] []).mem.read (at8000 [0xA9] []).pc = 0xA9 := by decide

theorem witness_LdaZeroPage : (at8000 [0xA5] []).runState = .ready ∧
    (at8000 [0xA5] []).mem.read (at8000 [0xA5] []).pc = 0xA5 := by decide

theorem witness_LdaZeroPageX : (at8000 [0xB5] []).runState = .ready ∧
    (at8000 [0xB5] []).mem.read (at8000 [0xB5] []).pc = 0xB5 := by decide

theorem witness_LdaAbsolute : (at8000 [0xAD] []).runState = .ready ∧
    (at8000 [0xAD] []).mem.read (at8000 [0xAD] []).pc = 0xAD := by decide

theorem witness_LdaAbsoluteX : (at8000 [0xBD] []).runState = .ready ∧
    (at8000 [0xBD] []).mem.read (at8000 [0xBD] []).pc = 0xBD := by decide

theorem witness_LdaAbsoluteY : (at8000 [0xB9] []).runState = .ready ∧
    (at8000 [0xB9] []).mem.read (at8000 [0xB9] []).pc = 0xB9 := by decide

theorem witness_LdaIndirectX : (at8000 [0xA1] []).runState = .ready ∧
    (at8000 [0xA1] []).mem.read (at8000 [0xA1] []).pc = 0xA1 := by decide

theorem witness_LdaIndirectY : (at8000 [0xB1] []).runState = .ready ∧
    (at8000 [0xB1] []).mem.read (at8000 [0xB1] []).pc = 0xB1 := by decide

theorem witness_StaZeroPage : (at8000 [0x85] []).runState = .ready ∧
    (at8000 [0x85] []).mem.read (at8000 [0x85] []).pc = 0x85 := by decide

theorem witness_StaZeroPageX : (at8000 [0x95] []).runState = .ready ∧
    (at8000 [0x95] []).mem.read (at8000 [0x95] []).pc = 0x95 := by decide

theorem witness_StaAbsolute : (at8000 [0x8D] []).runState = .ready ∧
    (at8000 [0x8D] []).mem.read (at8000 [0x8D] []).pc = 0x8D := by decide

theorem witness_StaAbsoluteX : (at8000 [0x9D] []).runState = .ready ∧
    (at8000 [0x9D] []).mem.read (at8000 [0x9D] []).pc = 0x9D := by decide

theorem witness_StaAbsoluteY : (at8000 [0x99] []).runState = .ready ∧
    (at8000 [0x99] []).mem.read (at8000 [0x99] []).pc = 0x99 := by decide

theorem witness_StaIndirectX : (at8000 [0x81] []).runState = .ready ∧
    (at8000 [0x81] []).mem.read (at8000 [0x81] []).pc = 0x81 := by decide

theorem witness_StaIndirectY : (at8000 [0x91] []).runState = .ready ∧
    (at8000 [0x91] []).mem.read (at8000 [0x91] []).pc = 0x91 := by decide

theorem witness_Tax : (at8000 [0xAA] []).runState = .ready ∧
    (at8000 [0xAA] []).mem.read (at8000 [0xAA] []).pc = 0xAA := by decide

theorem witness_Inx : (at8000 [0xE8] []).runState = .ready ∧
    (at8000 [0xE8] []).mem.read (at8000 [0xE8] []).pc = 0xE8 := by decide

theorem witness_Brk : (at8000 [0x00] []).runState = .ready ∧
    (at8000 [0x00] []).mem.read (at8000 [0x00] []).pc = 0x00 := by decide

theorem witness_ZeroPageModes : Mode.zeroPageX = .zeroPage ∨ Mode.zeroPageX = .zeroPageX ∨ Mode.zeroPageX = .zeroPageY := by
  decide

theorem witness_AluOperations : (1 ≤ 1 ∧ 1 ≤ 3) ∧ 1 ≤ 3 ∧ 3 ≤ 3 := by decide

/-- The image that just fits, an empty one, the addresses at its edges, and one outside it. -/
theorem witness_LoadWritesTheImage : [0xE8#8].length ≤ 65536 - (0xFFFF#16).toNat ∧
    ([] : List Byte).length ≤ 65536 - (0xFFFF#16).toNat ∧
    (0xFFFF#16 ≠ 0xFFFC#16 ∧ 0xFFFF#16 ≠ 0xFFFD#16 ∧ (0xFFFF#16).toNat < (0xFFFF#16).toNat + [0xE8#8].length) ∧
    (0xFFFE#16 ≠ 0xFFFC#16 ∧ 0xFFFE#16 ≠ 0xFFFD#16 ∧ ¬ (0xFFFF#16).toNat ≤ (0xFFFE#16).toNat) := by decide

theorem witness_OversizeLoad : 65536 - (0xFFFF#16).toNat < [0xE8#8, 0xE8#8].length := by decide

theorem witness_LoadThenReset : State.reset.runState ≠ .faulted ∧
    [0xA9#8, 0x05#8, 0x00#8].length ≤ 65536 - (0x8000#16).toNat := by decide

theorem witness_FaultedIsAbsorbing : afterEA.runState = .faulted ∧
    HostOp.memoryWrite 0xFFFF 0x01 ≠ .powerOn ∧ (stateLeft (hostOp (.memoryWrite 0xFFFF 0x01) afterEA)).isSome := by decide

theorem witness_StepKeepsTheInvariant_next : State.reset.Inv ∧
    step State.reset = .next { State.reset with pc := 0x0001, pcBefore := 0x0001, runState := .halted } :=
  ⟨by decide, rfl⟩

theorem witness_StepKeepsTheInvariant_fault : (at8000 [0xEA] []).Inv ∧
    ∃ f : Fault, step (at8000 [0xEA] []) = .fault f ∧ f.left = some afterEA :=
  ⟨by decide, _, rfl, rfl⟩

/-- A state that a host write and a step reach, with a flag set. -/
theorem witness_ReachableStates : ∃ s : State, Reachable s ∧ s.p = 0x02 :=
  ⟨_, .host (s := { State.powerOn with mem := [(0x0000, 0xAA)] }) .step
    (.host (.memoryWrite 0x0000 0xAA) .powerOn rfl) rfl, rfl⟩

/-- A step with a next state, and a run that has ended. -/
theorem witness_RunStops :
    stateLeft (step State.reset) = some { State.reset with pc := 0x0001, pcBefore := 0x0001, runState := .halted } ∧
    RunEnds State.reset 1 { State.reset with pc := 0x0001, pcBefore := 0x0001, runState := .halted } :=
  ⟨rfl, rfl, by decide⟩

/-- The two run states that are not Ready, and the step that ends in a fatal condition. -/
theorem witness_RunStops_fault : afterEA.runState ≠ .ready ∧ { State.reset with runState := .halted }.runState ≠ .ready ∧
    (at8000 [0xEA] []).runState = .ready ∧ stateLeft (step (at8000 [0xEA] [])) = some afterEA := by decide

/-- STA into the opcode byte of the next instruction (P4 stores into its operand), and one that stores elsewhere. -/
theorem witness_StoreIsSeen : (Instr.staAbsolute 0x8003).mnemonic = .sta ∧
    operandAddress (Instr.staAbsolute 0x8003).operand (at8000 [0x8D, 0x03, 0x80] []).beginHandler = some 0x8003 ∧
    (nextOf (exec (.staAbsolute 0x8003) (at8000 [0x8D, 0x03, 0x80] []))).map State.pc = some 0x8003 ∧
    (nextOf (exec (.staAbsolute 0x8004) (at8000 [0x8D, 0x04, 0x80] []))).map State.pc = some 0x8003 := by decide

end Sys2Proof.Tests
end

/-!
The state family (spec/10_state.md): what a completed step and a fault leave, the status computation bit by bit, the
invariant over steps and over every operation of the host, and the two pieces of state that no step reads, P and the latch.
-/

namespace Sys2Proof.Proofs

open Sys2Proof.Machine Sys2Proof.Laws

/-! ### What an answer leaves -/

/-- The next states of `exec`, one shape for each of the five handlers (R95): `exec_cases` read from the answer. -/
theorem exec_next_cases {i : Instr} {s t : State} (h : exec i s = .next t) :
    (i.mnemonic = .lda ∧ ∃ v, operandValue i.operand s.beginHandler = some v ∧
      { s with a := v, p := setZN s.p v, pc := s.pc + BitVec.ofNat 16 i.length, pcBefore := s.pc + 1 } = t) ∨
    (i.mnemonic = .sta ∧ ∃ addr, operandAddress i.operand s.beginHandler = some addr ∧
      { s with mem := s.mem.write addr s.a, pc := s.pc + BitVec.ofNat 16 i.length, pcBefore := s.pc + 1 } = t) ∨
    (i = .tax ∧ { s with x := s.a, p := setZN s.p s.a, pc := s.pc + 1, pcBefore := s.pc + 1 } = t) ∨
    (i = .inx ∧ { s with x := s.x + 1, p := setZN s.p (s.x + 1), pc := s.pc + 1, pcBefore := s.pc + 1 } = t) ∨
    (i = .brk ∧ { s with pc := s.pc + 1, pcBefore := s.pc + 1, runState := .halted } = t) := by
  simpa only [h, Host.Outcome.next.injEq, eq_comm] using exec_cases i s

/-- TAX whole (R150). -/
theorem exec_tax (s : State) :
    exec .tax s = .next { s with x := s.a, p := setZN s.p s.a, pc := s.pc + 1, pcBefore := s.pc + 1 } := by
  simpa [Instr.mnemonic] using exec_cases .tax s

/-- INX whole (R151). -/
theorem exec_inx (s : State) :
    exec .inx s = .next { s with x := s.x + 1, p := setZN s.p (s.x + 1), pc := s.pc + 1, pcBefore := s.pc + 1 } := by
  simpa [Instr.mnemonic] using exec_cases .inx s

/-- Every instruction has a next state: with this hardware's operands no handler raises a fault (R172). -/
theorem exec_isNext (i : Instr) (s : State) : ∃ t, exec i s = .next t := by
  rcases exec_cases i s with ⟨-, _, -, h⟩ | ⟨-, _, -, h⟩ | ⟨-, h⟩ | ⟨-, h⟩ | ⟨-, h⟩ <;> exact ⟨_, h⟩

/-- A completed step was taken in Ready and executed the instruction it fetched (R90, R91). -/
theorem step_next_inv {s t : State} (h : step s = .next t) :
    s.runState = .ready ∧ ∃ i, fetch s = .ok i ∧ exec i s = .next t := by
  rcases step_cases s with ⟨-, hs⟩ | ⟨-, hs⟩ | ⟨-, e, -, hs⟩ | ⟨hr, i, hf, hs⟩
  · cases hs.symm.trans h
  · cases hs.symm.trans h
  · cases hs.symm.trans h
  · exact ⟨hr, i, hf, hs.symm.trans h⟩

/-- A step in Ready executes the instruction it fetches (R91). -/
theorem step_of_fetch {s : State} {i : Instr} (hr : s.runState = .ready) (hf : fetch s = .ok i) :
    step s = exec i s := by
  simp only [step, hr, hf]

/-- The state a fault leaves: that of UnrecognizedOpcode, the pc past the opcode byte and the record filled (R175, R176). -/
theorem step_fault_left {s t : State} {f : Fault} (h : step s = .fault f) (hl : f.left = some t) :
    t = { s with
      pc := s.pc + 1, runState := .faulted,
      fault := { s.fault with kind := .unrecognizedOpcode, opcode := fetchOpcode s, pc := s.pc } } := by
  rcases step_cases s with ⟨-, hs⟩ | ⟨-, hs⟩ | ⟨-, e, -, hs⟩ | ⟨-, i, -, hs⟩
  · cases hs.symm.trans h; cases hl
  · cases hs.symm.trans h; cases hl
  · cases hs.symm.trans h; cases hl; rfl
  · obtain ⟨u, hu⟩ := exec_isNext i s
    cases hu.symm.trans (hs.symm.trans h)

/-- An answer leaves a state as its next state, or as the one its fault carries. -/
theorem stateLeft_eq_some {a : Answer} {t : State} :
    stateLeft a = some t ↔ a = .next t ∨ ∃ f, a = .fault f ∧ f.left = some t := by
  cases a <;> simp [stateLeft]

/-! ### The status computation -/

/-- The bits of a flag of P that is set on a condition. -/
theorem getLsbD_flag (c : Prop) [Decidable c] {j : Nat} (hj : j < 8) (k : Nat) :
    (if c then BitVec.twoPow 8 j else 0#8).getLsbD k = (decide c && decide (j = k)) := by
  by_cases hc : c <;> simp [hc, BitVec.getLsbD_twoPow, hj]

/-- Every bit of `SetZN`: bit 1 is Z, bit 7 is N, the others stay (R15). The two flags are powers of two, and the mask
0x7D is the complement of both. -/
theorem getLsbD_setZN (p v : Byte) (k : Nat) :
    (setZN p v).getLsbD k = if k = 1 then decide (v = 0) else if k = 7 then v.getLsbD 7 else p.getLsbD k := by
  have hmask : 0x7D#8 = ~~~(BitVec.twoPow 8 1 ||| BitVec.twoPow 8 7) := rfl
  have hz : 0x02#8 = BitVec.twoPow 8 1 := rfl
  have hn : 0x80#8 = BitVec.twoPow 8 7 := rfl
  rw [setZN, hmask, hz, hn, BitVec.getLsbD_or, BitVec.getLsbD_or, BitVec.getLsbD_and, BitVec.getLsbD_not,
    BitVec.getLsbD_or, BitVec.getLsbD_twoPow, BitVec.getLsbD_twoPow, getLsbD_flag _ (by decide),
    getLsbD_flag _ (by decide)]
  rcases eq_or_ne k 1 with rfl | h1
  · simp
  rcases eq_or_ne k 7 with rfl | h7
  · simp
  · have hlt : p.getLsbD k = true → k < 8 := BitVec.lt_of_getLsbD
    simpa [h1, h7, h1.symm, h7.symm] using hlt

/-- Settles O4, from the bits of `SetZN`; a byte with bit 7 set is not 0, so the two flags exclude each other. -/
theorem setZNWritesZeroAndNegativeOnly : Obligations.SetZNWritesZeroAndNegativeOnly := by
  intro p v
  have hz : (setZN p v).getLsbD 1 = decide (v = 0) := getLsbD_setZN p v 1
  have hn : (setZN p v).getLsbD 7 = v.getLsbD 7 := getLsbD_setZN p v 7
  refine ⟨rfl, hz, hn, fun k h1 h7 => by rw [getLsbD_setZN, if_neg h1, if_neg h7], ?_⟩
  rw [hz, hn]
  rintro ⟨hv, hv7⟩
  simp [of_decide_eq_true hv] at hv7

/-- Settles O5: `exec_next_cases` gives P and the register written side by side, handler by handler. -/
theorem flagsFollowTheRegisterResult : Obligations.FlagsFollowTheRegisterResult := by
  intro i s t h
  rcases exec_next_cases h with ⟨hm, v, -, rfl⟩ | ⟨hm, addr, -, rfl⟩ | ⟨rfl, rfl⟩ | ⟨rfl, rfl⟩ | ⟨rfl, rfl⟩
  · simp [hm]
  · simp [hm]
  · simp [Instr.mnemonic]
  · simp [Instr.mnemonic]
  · simp [Instr.mnemonic]

/-! ### The invariant -/

/-- A change of memory to canonical memory keeps the invariant. -/
theorem inv_setMem {s : State} (h : s.Inv) {m : Memory} (hm : m.wf) : (s.setMem m).Inv := by
  obtain ⟨-, hy, hp, hf⟩ := h
  exact ⟨hm, hy, hp, hf⟩

/-- Power-on meets the invariant (R200). -/
theorem inv_powerOn : State.powerOn.Inv :=
  ⟨Memory.wf_reset, rfl, .inl rfl, fun _ => rfl⟩

/-- Settles O52: reset after power-on leaves what power-on left (vector V124). -/
theorem resetStateMeetsTheInvariant : Obligations.ResetStateMeetsTheInvariant :=
  inv_powerOn

/-- Outside Faulted, where the record is clear already, every handler keeps the invariant: it writes memory by
`Memory.write`, P by `SetZN`, and neither Y nor the record. In Faulted BRK would not, since it leaves a filled record in
Halted; no step gets there. -/
theorem exec_keeps_inv {i : Instr} {s t : State} (hi : s.Inv) (hr : s.runState ≠ .faulted) (h : exec i s = .next t) :
    t.Inv := by
  obtain ⟨hm, hy, hp, hf⟩ := hi
  rcases exec_next_cases h with ⟨-, v, -, rfl⟩ | ⟨-, addr, -, rfl⟩ | ⟨-, rfl⟩ | ⟨-, rfl⟩ | ⟨-, rfl⟩
  · exact ⟨hm, hy, setZN_legal hp v, hf⟩
  · exact ⟨Memory.wf_write hm addr s.a, hy, hp, hf⟩
  · exact ⟨hm, hy, setZN_legal hp s.a, hf⟩
  · exact ⟨hm, hy, setZN_legal hp (s.x + 1), hf⟩
  · exact ⟨hm, hy, hp, fun _ => hf hr⟩

/-- Settles O53: a next state is a handler's, and the state a fault leaves is Faulted, where nothing is asked of the
record. -/
theorem stepKeepsTheInvariant : Obligations.StepKeepsTheInvariant := by
  rintro s t hi (h | ⟨f, h, hl⟩)
  · obtain ⟨hr, i, -, he⟩ := step_next_inv h
    exact exec_keeps_inv hi (by simp [hr]) he
  · obtain ⟨hm, hy, hp, -⟩ := hi
    obtain rfl := step_fault_left h hl
    exact ⟨hm, hy, hp, fun hr => absurd rfl hr⟩

/-- A load keeps the invariant (R204). -/
theorem loadAt_keeps_inv {loadAddress : Address} {program : List Byte} {s t : State} (hi : s.Inv)
    (h : stateLeft (loadAt loadAddress program s) = some t) : t.Inv := by
  rcases loadAt_cases loadAddress program s with hl | hl <;> rw [hl] at h <;> cases h
  exact inv_setMem hi (Memory.wf_write16 (Memory.wf_writeBytes hi.1 _ _) _ _)

/-- A reset keeps the invariant: it is not taken in Faulted, so the record it leaves alone is clear (R201, R203). -/
theorem resetRequest_keeps_inv {s t : State} (hi : s.Inv) (h : stateLeft (resetRequest s) = some t) : t.Inv := by
  obtain ⟨hm, -, -, hf⟩ := hi
  rcases resetRequest_cases s with ⟨-, hs⟩ | ⟨hr, hs⟩ <;> rw [hs] at h <;> cases h
  exact ⟨hm, rfl, .inl rfl, fun _ => hf hr⟩

/-- Every operation of the host keeps the invariant, in the state it leaves (R215). -/
theorem hostOp_keeps_inv {op : HostOp} {s t : State} (hi : s.Inv) (h : stateLeft (hostOp op s) = some t) : t.Inv := by
  cases op with
  | powerOn => cases h; exact inv_powerOn
  | load program => exact loadAt_keeps_inv hi h
  | reset => exact resetRequest_keeps_inv hi h
  | step => exact stepKeepsTheInvariant s t hi (stateLeft_eq_some.1 h)
  | memoryWrite a v => cases h; exact inv_setMem hi (Memory.wf_write hi.1 a v)

/-- The invariant holds in every reachable state. -/
theorem reachable_inv {s : State} (h : Reachable s) : s.Inv := by
  induction h with
  | powerOn => exact inv_powerOn
  | host op _ ht ih => exact hostOp_keeps_inv ih ht

/-- Settles O54, two parts of the invariant. -/
theorem reachableStatesHaveYZeroAndLegalStatus : Obligations.ReachableStatesHaveYZeroAndLegalStatus := by
  intro s h
  obtain ⟨-, hy, hp, -⟩ := reachable_inv h
  exact ⟨hy, hp⟩

/-- Settles O55, the two other parts of the invariant. -/
theorem reachableStatesKeepMemoryCanonicalAndRecordClear :
    Obligations.ReachableStatesKeepMemoryCanonicalAndRecordClear := by
  intro s h
  obtain ⟨hm, -, -, hf⟩ := reachable_inv h
  exact ⟨hm, hf⟩

/-! ### State that no step reads -/

/-- The resolver reads the pc, X, Y and memory, so not P (R121). -/
theorem operandAddress_with_p (o : Operand) (s : State) (q : Byte) :
    operandAddress o { s with p := q }.beginHandler = operandAddress o s.beginHandler := rfl

/-- The byte of an operand does not depend on P either (R130). -/
theorem operandValue_with_p (o : Operand) (s : State) (q : Byte) :
    operandValue o { s with p := q }.beginHandler = operandValue o s.beginHandler := rfl

/-- P influences nothing but P: each handler has, on a state with another P, the same next state but for P (R13). -/
theorem exec_with_p {i : Instr} {s t : State} (h : exec i s = .next t) (q : Byte) :
    ∃ q', exec i { s with p := q } = .next { t with p := q' } := by
  rcases exec_next_cases h with ⟨hm, v, hv, rfl⟩ | ⟨hm, addr, ha, rfl⟩ | ⟨rfl, rfl⟩ | ⟨rfl, rfl⟩ | ⟨rfl, rfl⟩
  · exact ⟨_, (exec_of_lda hm _).trans (loadAccumulator_of_value ((operandValue_with_p _ s q).trans hv))⟩
  · exact ⟨_, (exec_of_sta hm _).trans (storeAccumulator_of_address ((operandAddress_with_p _ s q).trans ha))⟩
  · exact ⟨_, exec_tax _⟩
  · exact ⟨_, exec_inx _⟩
  · exact ⟨_, rfl⟩

/-- Settles O56: the fetch does not read P, and `exec_with_p` says the rest. -/
theorem statusNeverInfluencesExecution : Obligations.StatusNeverInfluencesExecution := by
  intro s t q h
  obtain ⟨hr, i, hf, he⟩ := step_next_inv h
  obtain ⟨q', he'⟩ := exec_with_p he q
  exact ⟨q', (step_of_fetch (s := { s with p := q }) hr hf).trans he'⟩

/-- No handler reads the latch it finds: each starts from the pc and from `beginHandler`, which writes the latch (R94). -/
theorem exec_with_pcBefore (i : Instr) (s : State) (v : Address) : exec i { s with pcBefore := v } = exec i s := by
  cases i <;> rfl

/-- Every instruction leaves the address after its opcode in the latch (R94). -/
theorem exec_pcBefore {i : Instr} {s t : State} (h : exec i s = .next t) : t.pcBefore = s.pc + 1 := by
  rcases exec_next_cases h with ⟨-, _, -, rfl⟩ | ⟨-, _, -, rfl⟩ | ⟨-, rfl⟩ | ⟨-, rfl⟩ | ⟨-, rfl⟩ <;> rfl

/-- Settles O57: the fetch does not read the latch, and `exec_with_pcBefore` and `exec_pcBefore` say the rest. -/
theorem theLatchIsNeverRead : Obligations.TheLatchIsNeverRead := by
  refine ⟨exec_with_pcBefore, fun s t v h => ?_, fun s t h => ?_⟩
  · obtain ⟨hr, i, hf, he⟩ := step_next_inv h
    exact (step_of_fetch (s := { s with pcBefore := v }) hr hf).trans ((exec_with_pcBefore i s v).trans he)
  · obtain ⟨-, i, -, he⟩ := step_next_inv h
    exact exec_pcBefore he

end Sys2Proof.Proofs

/-!
The memory family (spec/20_memory.md): byte order of 16-bit accesses, the host's memory write, and a store met by the
next fetch.
-/

namespace Sys2Proof.Proofs

open Sys2Proof.Machine Sys2Proof.Laws

/-! ### 16-bit accesses -/

/-- A cell and the one after it are two cells, at the wrap too (R45). -/
theorem address_ne_next (a : Address) : a ≠ a + 1 := by
  bv_omega

/-- The low byte of a 16-bit write is at its address: the high byte, written second, goes to another cell (R44). -/
theorem read_write16_low (m : Memory) (a v : Address) : (m.write16 a v).read a = v.extractLsb' 0 8 :=
  (Memory.read_write_ne _ (address_ne_next a) _).trans (Memory.read_write_same _ _ _)

/-- The high byte of a 16-bit write is at the next address (R44). -/
theorem read_write16_high (m : Memory) (a v : Address) : (m.write16 a v).read (a + 1) = v.extractLsb' 8 8 :=
  Memory.read_write_same _ _ _

/-- A 16-bit read puts together the two bytes a 16-bit write left, which are those of its value (R58). -/
theorem read16_write16 (m : Memory) (a v : Address) : (m.write16 a v).read16 a = v :=
  calc (m.write16 a v).read16 a
    _ = word16 ((m.write16 a v).read (a + 1)) ((m.write16 a v).read a) := rfl
    _ = word16 (highByte v) (lowByte v) := by rw [read_write16_high, read_write16_low]; rfl
    _ = v := word16_bytes v

/-- Settles O6: the value and the two cells, from `read16_write16` and the two reads it rests on. -/
theorem write16ThenRead16RoundTrips : Obligations.Write16ThenRead16RoundTrips := fun m a v =>
  ⟨read16_write16 m a v, read_write16_low m a v, read_write16_high m a v⟩

/-- Settles O7: `read16` is the value of its two bytes put together, and `write16` is its two byte writes. -/
theorem sixteenBitAccessesAreLittleEndian : Obligations.SixteenBitAccessesAreLittleEndian := fun m a _ =>
  ⟨word16_toNat (m.read (a + 1)) (m.read a), rfl⟩

/-! ### Writes of one cell -/

/-- The host's memory write is a write of memory, whatever the run state (R214). -/
theorem hostOp_memoryWrite (a : Address) (v : Byte) (s : State) :
    hostOp (.memoryWrite a v) s = .next (s.setMem (s.mem.write a v)) := rfl

/-- Settles O8: no field but memory is written, and memory by `Memory.write`. -/
theorem hostWriteChangesOneCell : Obligations.HostWriteChangesOneCell := by
  intro s a v
  refine ⟨_, hostOp_memoryWrite a v s, rfl, ?_, fun b hb => ?_⟩
  · exact Memory.read_write_same s.mem a v
  · exact Memory.read_write_ne s.mem hb v

/-- What an STA instruction does, once its address is known (R139). -/
theorem exec_sta_of_address {i : Instr} {s : State} {addr : Address} (hm : i.mnemonic = .sta)
    (ha : operandAddress i.operand s.beginHandler = some addr) :
    exec i s = .next { s with
      mem := s.mem.write addr s.a, pc := s.pc + BitVec.ofNat 16 i.length, pcBefore := s.pc + 1 } :=
  (exec_of_sta hm s).trans (storeAccumulator_of_address ha)

/-- The opcode byte fetched after an STA: the byte stored where the store hit it, else the byte that stood there (R53). -/
theorem fetchOpcode_after_sta {i : Instr} {s t : State} {addr : Address} (hm : i.mnemonic = .sta)
    (ha : operandAddress i.operand s.beginHandler = some addr) (h : exec i s = .next t) :
    fetchOpcode t = if t.pc = addr then s.a else s.mem.read t.pc := by
  obtain rfl := Host.Outcome.next.inj ((exec_sta_of_address hm ha).symm.trans h)
  exact Memory.read_write _ _ _ _

/-- Settles O59, the two cases of `fetchOpcode_after_sta`. -/
theorem storeIsSeenByTheNextFetch : Obligations.StoreIsSeenByTheNextFetch := by
  intro i s t addr hm ha h
  have hf := fetchOpcode_after_sta hm ha h
  exact ⟨fun heq => hf.trans (if_pos heq.symm), fun hne => hf.trans (if_neg hne.symm)⟩

end Sys2Proof.Proofs

/-!
The encoding family (spec/30_encoding.md): when bytes decode to an instruction, the table row of each instruction, and
decode and encode as each other's inverses.
-/

namespace Sys2Proof.Proofs

open Sys2Proof.Laws

/-! ### What decode can answer -/

/-- An opcode byte without a row is rejected before any operand byte is looked at (R75, R76). -/
theorem decode_of_no_row {op : Byte} (h : lookupOpcode op = none) (bytes : List Byte) :
    decode (op :: bytes) = .error (.unrecognizedOpcode op) := by
  simp only [decode, h]

/-- Decoding succeeds exactly when each of its parts does: the lookup, the operand bytes, the row's handler and the
assembly (R71 to R75). -/
theorem decode_cons_eq_ok_iff {op : Byte} {bytes rest : List Byte} {i : Instr} :
    decode (op :: bytes) = .ok (i, rest) ↔
      ∃ row o mn, lookupOpcode op = some row ∧ takeOperand row.mode bytes = some (o, rest) ∧
        row.mnemonic = some mn ∧ assemble mn o = some i := by
  cases hrow : lookupOpcode op with
  | none => simp [decode_of_no_row hrow]
  | some row =>
    cases htake : takeOperand row.mode bytes with
    | none => simp [decode, hrow, htake]
    | some taken =>
      obtain ⟨o, r⟩ := taken
      cases hmn : row.mnemonic with
      | none => simp [decode, hrow, htake, hmn]
      | some mn => cases hasm : assemble mn o <;> simp [decode, hrow, htake, hmn, hasm, and_comm]

/-- Every instruction has its row in the table and is what that row stands for (R74). -/
theorem tableRow (i : Instr) : TableRow.Statement i := by
  cases i
  exacts [TableRow.ldaImmediate _, TableRow.ldaZeroPage _, TableRow.ldaZeroPageX _, TableRow.ldaAbsolute _,
    TableRow.ldaAbsoluteX _, TableRow.ldaAbsoluteY _, TableRow.ldaIndirectX _, TableRow.ldaIndirectY _,
    TableRow.staZeroPage _, TableRow.staZeroPageX _, TableRow.staAbsolute _, TableRow.staAbsoluteX _,
    TableRow.staAbsoluteY _, TableRow.staIndirectX _, TableRow.staIndirectY _, TableRow.tax, TableRow.inx, TableRow.brk]

/-! ### Decode and encode -/

/-- The lookup, the operand and the assembly each give back the instruction's own part. -/
theorem decode_encode (i : Instr) (rest : List Byte) : decode (encode i ++ rest) = .ok (i, rest) := by
  obtain ⟨hrow, hasm, -⟩ := tableRow i
  exact decode_cons_eq_ok_iff.2 ⟨_, _, _, hrow, takeOperand_bytes i.operand rest, rfl, hasm⟩

/-- Settles O9 by `decode_encode`, which needs no hypothesis: every instruction is well formed. -/
theorem decodingAnEncodingGivesItBack : Obligations.DecodingAnEncodingGivesItBack :=
  fun i rest _ => decode_encode i rest

/-- The row of an opcode byte fixes that byte: an instruction with the row's mnemonic and mode has it as its own opcode,
since the table has no second row with both (R74). -/
theorem opcode_of_row {op : Byte} {row : Row} {i : Instr} (hrow : lookupOpcode op = some row)
    (hmn : row.mnemonic = some i.mnemonic) (hmode : row.mode = i.operand.mode) : i.opcode = op := by
  obtain ⟨hrow', -, -⟩ := tableRow i
  obtain ⟨hmem, hop⟩ := lookupRow_inv hrow
  obtain ⟨hmem', -⟩ := lookupRow_inv hrow'
  obtain rfl := opcodeTable_unique row hmem _ hmem' hmn hmode
  exact hop

/-- Settles O10: the operand bytes by `takeOperand_inv`, the opcode byte by `opcode_of_row`. -/
theorem everyDecodedWordIsItsEncoding : Obligations.EveryDecodedWordIsItsEncoding := by
  intro bytes rest i h
  cases bytes with
  | nil => cases h
  | cons op bytes =>
    obtain ⟨row, o, mn, hrow, htake, hmn, hasm⟩ := decode_cons_eq_ok_iff.1 h
    obtain ⟨hmode, rfl⟩ := takeOperand_inv htake
    obtain ⟨rfl, rfl⟩ := assemble_inv hasm
    rw [encode, opcode_of_row hrow hmn hmode.symm, List.cons_append]

/-! ### The legal opcode bytes -/

/-- The bytes with a row are those in the table's opcode column (R80). -/
theorem lookupOpcode_isSome_iff (op : Byte) : (lookupOpcode op).isSome ↔ op ∈ opcodeTable.map Row.opcode := by
  simp [lookupOpcode, lookupRow, List.find?_isSome]

/-- Two bytes after the opcode are enough for every mode (R71). -/
theorem takeOperand_of_two_bytes (m : Mode) (d e : Byte) (bytes : List Byte) :
    ∃ o rest, takeOperand m (d :: e :: bytes) = some (o, rest) := by
  cases m <;> exact ⟨_, _, rfl⟩

/-- A mnemonic and an operand make an instruction exactly when the mnemonic admits the operand's mode (R74, R123). -/
theorem assemble_isSome (mn : Mnemonic) (o : Operand) : (assemble mn o).isSome = mn.admits o.mode := by
  cases mn <;> cases o <;> rfl

/-- A row of the table has a mnemonic, which admits its mode (R77, R123). -/
theorem admits_of_row {op : Byte} {row : Row} (h : lookupOpcode op = some row) :
    ∃ mn, row.mnemonic = some mn ∧ mn.admits row.mode = true := by
  obtain ⟨hmem, -⟩ := lookupRow_inv h
  obtain ⟨hall, -⟩ := Bool.and_eq_true_iff.1 opcodeTable_wellFormed
  have hwf := List.all_eq_true.1 hall row hmem
  cases hmn : row.mnemonic with
  | none => simp [Row.wellFormed, hmn] at hwf
  | some mn =>
    simp only [Row.wellFormed, hmn, Bool.and_eq_true] at hwf
    exact ⟨mn, rfl, hwf.1⟩

/-- An opcode byte with a row decodes with any two bytes after it (R79). -/
theorem decode_of_row {op : Byte} {row : Row} (hrow : lookupOpcode op = some row) (d e : Byte) (bytes : List Byte) :
    ∃ i rest, decode (op :: d :: e :: bytes) = .ok (i, rest) := by
  obtain ⟨mn, hmn, hadm⟩ := admits_of_row hrow
  obtain ⟨o, rest, htake⟩ := takeOperand_of_two_bytes row.mode d e bytes
  obtain ⟨hmode, -⟩ := takeOperand_inv htake
  obtain ⟨i, hasm⟩ := Option.isSome_iff_exists.1 ((assemble_isSome mn o).trans (hmode ▸ hadm))
  exact ⟨i, rest, decode_cons_eq_ok_iff.2 ⟨row, o, mn, hrow, htake, hmn, hasm⟩⟩

/-- Settles O11: the bytes R76 lists are the table's opcode column, and having a row decides both clauses. -/
theorem opcodesOutsideTheTableAreIllegal : Obligations.OpcodesOutsideTheTableAreIllegal := by
  intro op bytes
  refine ⟨fun hop => ?_, fun hop => ?_⟩
  · have hsome : (lookupOpcode op).isSome := (lookupOpcode_isSome_iff op).2 hop
    obtain ⟨row, hrow⟩ := Option.isSome_iff_exists.1 hsome
    exact ⟨hsome, fun d e => decode_of_row hrow d e bytes⟩
  · have hnone : lookupOpcode op = none := Option.not_isSome_iff_eq_none.1 (hop ∘ (lookupOpcode_isSome_iff op).1)
    exact ⟨hnone, decode_of_no_row hnone bytes⟩

/-- Settles O12: each word is the encoding of its instruction. -/
theorem specWordsDecodeAsWritten : Obligations.SpecWordsDecodeAsWritten :=
  ⟨decode_encode (.ldaImmediate 0x05) [], decode_encode (.ldaAbsoluteX 0x0200) [], decode_encode (.staAbsolute 0x0200) [],
    decode_encode (.staIndirectY 0x20) [], decode_encode .tax [], decode_encode .inx [], decode_encode .brk []⟩

end Sys2Proof.Proofs

/-!
The step family (spec/40_fetch_decode_execute.md): what a fetch finds, the step against the spec's algorithm, what a step
leaves in Ready and where there is none, and runs.
-/

namespace Sys2Proof.Proofs

open Sys2Proof.Machine Sys2Proof.Laws

/-! ### The instruction a step finds -/

/-- Mnemonic and operand determine the instruction: it is what they assemble to (R74). -/
theorem instr_ext {i j : Instr} (hm : i.mnemonic = j.mnemonic) (ho : i.operand = j.operand) : i = j := by
  obtain ⟨-, hi, -⟩ := tableRow i
  obtain ⟨-, hj, -⟩ := tableRow j
  rw [hm, ho] at hi
  exact Option.some.inj (hi.symm.trans hj)

/-- A fetch that finds an instruction found a row of the table, whose mnemonic and length are the instruction's (R93). -/
theorem fetch_ok_inv {s : State} {i : Instr} (h : fetch s = .ok i) :
    ∃ row, lookupOpcode (s.mem.read s.pc) = some row ∧ some i.mnemonic = row.mnemonic ∧ i.length = row.length := by
  cases hrow : lookupOpcode (s.mem.read s.pc) with
  | none => cases h.symm.trans (fetch_of_no_row hrow)
  | some row =>
    obtain ⟨j, hf, hm, -, -, hl⟩ := fetch_of_row hrow
    cases h.symm.trans hf
    exact ⟨row, rfl, hm, hl⟩

/-- The operand taken off the two bytes at the pc is the one the resolver reads there (R71, R72). -/
theorem takeOperand_at_pc (m : Mode) (s : State) :
    ∃ rest, takeOperand m [s.mem.read s.pc, s.mem.read (inc16 s.pc)] = some (readOperand m s, rest) := by
  cases m <;> exact ⟨_, rfl⟩

/-- What three bytes at the pc decode to is what the fetch finds, which reads no more bytes than the row says (R59, R78). -/
theorem fetch_of_decode {s : State} {i : Instr} {rest : List Byte}
    (h : decode [s.mem.read s.pc, s.mem.read (s.pc + 1), s.mem.read (s.pc + 2)] = .ok (i, rest)) : fetch s = .ok i := by
  obtain ⟨row, o, mn, hrow, htake, hmn, hasm⟩ := decode_cons_eq_ok_iff.1 h
  obtain ⟨j, hf, hjm, hjo, -, -⟩ := fetch_of_row hrow
  obtain ⟨him, hio⟩ := assemble_inv hasm
  have hpc : s.pc + 2 = inc16 s.advancePastOpcode.pc := by simp [inc16, BitVec.add_assoc]
  obtain ⟨_, hread⟩ := takeOperand_at_pc row.mode s.advancePastOpcode
  rw [hpc] at htake
  obtain ⟨ho, -⟩ := Prod.mk.inj (Option.some.inj (htake.symm.trans hread))
  have hji : j = i :=
    instr_ext (Option.some.inj (hjm.trans (hmn.trans (congrArg some him.symm)))) (hjo.trans (ho.symm.trans hio.symm))
  rw [hf, hji]

/-- Settles O13: the fetch finds the decoded instruction, and a Ready step executes what it fetched. -/
theorem stepRunsTheDecodedInstruction : Obligations.StepRunsTheDecodedInstruction :=
  fun _ _ _ hr _ h => step_of_fetch hr (fetch_of_decode h)

/-! ### The step and the spec's algorithm -/

/-- The byte a load takes of an operand read at the pc is the one at the effective address, for Immediate too, whose
address is the pc (R110, R130). -/
theorem operandValue_readOperand (m : Mode) (s : State) :
    operandValue (readOperand m s) s = (effectiveAddress m s).map s.mem.read := by
  cases m <;> rfl

/-- The meaning of an instruction read at the pc is actions 4 and 5 of its row, taken after the latch (R91, R95, R96). -/
theorem exec_eq_runRow {i : Instr} {row : Row} {s : State} (hm : some i.mnemonic = row.mnemonic)
    (ho : i.operand = readOperand row.mode s.beginHandler) (hl : i.length = row.length) (op : Byte) :
    exec i s = runRow row op s.pc s.beginHandler := by
  rcases exec_cases i s with ⟨hi, v, hv, -⟩ | ⟨hi, addr, ha, -⟩ | ⟨rfl, -⟩ | ⟨rfl, -⟩ | ⟨rfl, -⟩
  · obtain ⟨addr, ha, rfl⟩ : ∃ addr, effectiveAddress row.mode s.beginHandler = some addr ∧ s.mem.read addr = v :=
      Option.map_eq_some_iff.1 ((operandValue_readOperand _ _).symm.trans (ho ▸ hv))
    rw [exec_of_lda hi]
    simp only [loadAccumulator, runRow, hv, ha, ← hm, hi, ← hl, Instr.length, State.beginHandler_mem]
  · have hea : effectiveAddress row.mode s.beginHandler = some addr := by
      rw [effectiveAddress, ← ho, ha]
    rw [exec_of_sta hi]
    simp only [storeAccumulator, runRow, ha, hea, ← hm, hi, ← hl, Instr.length]
  · simp only [exec, execTax, runRow, ← hm, ← hl, Instr.mnemonic]
    rfl
  · simp only [exec, execInx, runRow, ← hm, ← hl, Instr.mnemonic]
    rfl
  · simp only [exec, execBrk, runRow, ← hm, Instr.mnemonic]

/-- Settles O14: both answer alike outside Ready, an opcode byte without a row ends both in the same fault, and one with
a row is `exec_eq_runRow`. -/
theorem stepIsTheSpecsStepAlgorithm : Obligations.StepIsTheSpecsStepAlgorithm := by
  intro s
  cases hr : s.runState with
  | halted => simp only [step, stepWith, hr]
  | faulted => simp only [step, stepWith, hr]
  | ready =>
    cases hrow : lookupOpcode (s.mem.read s.pc) with
    | none =>
      have hrow' : lookupRow opcodeTable (s.mem.read s.pc) = none := hrow
      simp only [step, stepWith, hr, fetch_of_no_row hrow, hrow']
      rfl
    | some row =>
      have hrow' : lookupRow opcodeTable (s.mem.read s.pc) = some row := hrow
      obtain ⟨i, hf, hm, ho, -, hl⟩ := fetch_of_row hrow
      rw [step_of_fetch hr hf]
      simp only [stepWith, hr, hrow']
      exact exec_eq_runRow hm ho hl _

/-! ### What a step leaves -/

/-- A step asked for in Halted is answered by its name alone (R90). -/
theorem step_of_halted {s : State} (h : s.runState = .halted) : step s = .fault .noStepHalted := by
  simp only [step, h]

/-- A step asked for in Faulted is answered by its name alone (R90). -/
theorem step_of_faulted {s : State} (h : s.runState = .faulted) : step s = .fault .noStepFaulted := by
  simp only [step, h]

/-- A Ready step at an opcode byte without a row raises UnrecognizedOpcode (R93, R171). -/
theorem step_of_no_row {s : State} (hr : s.runState = .ready) (h : lookupOpcode (s.mem.read s.pc) = none) :
    step s = .fault (.unrecognizedOpcode { s with
      pc := s.pc + 1, runState := .faulted,
      fault := { s.fault with kind := .unrecognizedOpcode, opcode := s.mem.read s.pc, pc := s.pc } }) := by
  simp only [step, hr, fetch_of_no_row h]
  rfl

/-- A Ready step leaves a state: the next one of what it fetched, or the one its fatal condition carries (R90, R103). -/
theorem stateLeft_step_of_ready {s : State} (hr : s.runState = .ready) : ∃ t, stateLeft (step s) = some t := by
  cases hf : fetch s with
  | error e => exact ⟨_, by simp only [step, hr, hf]; rfl⟩
  | ok i =>
    obtain ⟨t, ht⟩ := exec_isNext i s
    exact ⟨t, by rw [step_of_fetch hr hf, ht]; rfl⟩

/-- Settles O18; from power-on, where every cell reads 0x00, the step is the BRK at address 0. -/
theorem noStepOutsideReady : Obligations.NoStepOutsideReady := by
  refine fun s => ⟨?_, stateLeft_step_of_ready, rfl⟩
  rintro (h | h)
  · rw [step_of_halted h]; rfl
  · rw [step_of_faulted h]; rfl

/-- Settles O51. -/
theorem stopsAreNamed : Obligations.StopsAreNamed := by
  refine fun s => ⟨step_of_halted, fun h => ⟨step_of_faulted h, ?_⟩⟩
  rcases resetRequest_cases s with ⟨-, hs⟩ | ⟨hn, -⟩
  · exact hs
  · exact absurd h hn

/-- Every instruction leaves the pc past its own bytes, modulo 65536 (R97, R100). -/
theorem exec_pc {i : Instr} {s t : State} (h : exec i s = .next t) : t.pc = s.pc + BitVec.ofNat 16 i.length := by
  rcases exec_next_cases h with ⟨-, _, -, rfl⟩ | ⟨-, _, -, rfl⟩ | ⟨rfl, rfl⟩ | ⟨rfl, rfl⟩ | ⟨rfl, rfl⟩ <;> rfl

/-- No instruction but BRK writes the run state (R104, R160). -/
theorem exec_runState {i : Instr} {s t : State} (hi : i ≠ .brk) (h : exec i s = .next t) :
    t.runState = s.runState := by
  rcases exec_next_cases h with ⟨-, _, -, rfl⟩ | ⟨-, _, -, rfl⟩ | ⟨-, rfl⟩ | ⟨-, rfl⟩ | ⟨hb, -⟩
  · rfl
  · rfl
  · rfl
  · rfl
  · exact absurd hb hi

/-- BRK is the one instruction of its mnemonic (R74). -/
theorem mnemonic_eq_brk_iff (i : Instr) : i.mnemonic = .brk ↔ i = .brk := by
  cases i <;> simp [Instr.mnemonic]

/-- Settles O19: the lookup fails, or it finds BRK, or another row, whose instruction completes. -/
theorem stepHasOneOfThreeOutcomes : Obligations.StepHasOneOfThreeOutcomes := by
  intro s hr
  cases hrow : lookupOpcode (s.mem.read s.pc) with
  | none => exact .inr (.inr ⟨rfl, _, by simp, step_of_no_row hr hrow⟩)
  | some row =>
    obtain ⟨i, hf, hm, -, hc, hl⟩ := fetch_of_row hrow
    have hstep := step_of_fetch hr hf
    by_cases hb : i = .brk
    · subst hb
      exact .inr (.inl ⟨hc.symm, hstep⟩)
    · obtain ⟨t, ht⟩ := exec_isNext i s
      have hne : row.mnemonic ≠ some .brk := by simpa [← hm, mnemonic_eq_brk_iff] using hb
      exact .inl ⟨row, t, rfl, hne, hstep.trans ht, (exec_runState hb ht).trans hr, hl ▸ exec_pc ht⟩

/-- Settles O20: `exec_pc` with the length of the row fetched. -/
theorem pcAdvancesByTheDeclaredLength : Obligations.PcAdvancesByTheDeclaredLength := by
  intro s t h
  obtain ⟨-, i, hf, he⟩ := step_next_inv h
  obtain ⟨row, hrow, hm, hl⟩ := fetch_ok_inv hf
  refine ⟨row, hrow, hl ▸ exec_pc he, fun hb => ?_⟩
  obtain rfl := (mnemonic_eq_brk_iff i).1 (Option.some.inj (hm.trans hb))
  exact hl.symm

/-- Settles O21, handler by handler: LDA writes A and P, STA memory, TAX and INX X and P, BRK none of them. -/
theorem stepWritesAtMostOneCellAndOneRegister : Obligations.StepWritesAtMostOneCellAndOneRegister := by
  intro s t h
  obtain ⟨-, i, hf, he⟩ := step_next_inv h
  rcases exec_next_cases he with ⟨-, v, -, rfl⟩ | ⟨hm, addr, ha, rfl⟩ | ⟨-, rfl⟩ | ⟨-, rfl⟩ | ⟨-, rfl⟩
  · exact ⟨rfl, rfl, .inr rfl, .inr (.inl rfl), .inl rfl⟩
  · exact ⟨rfl, rfl, .inl rfl, .inl rfl, .inr ⟨i, addr, hf, hm, ha, rfl⟩⟩
  · exact ⟨rfl, rfl, .inl rfl, .inr (.inr rfl), .inl rfl⟩
  · exact ⟨rfl, rfl, .inl rfl, .inr (.inr rfl), .inl rfl⟩
  · exact ⟨rfl, rfl, .inl rfl, .inl rfl, .inl rfl⟩

/-! ### Runs -/

/-- From a Ready state a run goes on from what the step leaves (R98). -/
theorem run_succ_of_ready {s t : State} (hr : s.runState = .ready) (ht : stateLeft (step s) = some t) (n : Nat) :
    run (n + 1) s = run n t := by
  simp only [run, hr, ht]

/-- A longer run is a run from where a shorter one got to. -/
theorem run_add (n k : Nat) (s : State) : run (n + k) s = run k (run n s) := by
  induction n generalizing s with
  | zero => rw [Nat.zero_add, run]
  | succ n ih =>
    by_cases hr : s.runState = .ready
    · obtain ⟨t, ht⟩ := stateLeft_step_of_ready hr
      rw [Nat.succ_add, run_succ_of_ready hr ht, run_succ_of_ready hr ht, ih]
    · rw [run_of_not_ready hr, run_of_not_ready hr, run_of_not_ready hr]

/-- Settles O58: by `run_add` a longer run goes on from the end of the shorter one, where it takes no step. -/
theorem runStopsAtTheFirstStateNotReady : Obligations.RunStopsAtTheFirstStateNotReady := by
  refine ⟨fun _ => rfl, fun n s h => run_of_not_ready h n, fun n s t hr ht => run_succ_of_ready hr ht n, ?_⟩
  rintro n s t ⟨rfl, ht⟩ k
  rw [run_add, run_of_not_ready ht]

end Sys2Proof.Proofs

/-!
The addressing family (spec/41_addressing_modes.md): the resolver mode by mode, the bound of its zero-page forms, and the
request for an address that no mode gives.
-/

namespace Sys2Proof.Proofs

open Sys2Proof.Machine Sys2Proof.Laws

/-! ### A row without an address or without a handler -/

/-- A Ready step whose lookup finds a row performs actions 4 and 5 of that row after the latch (R91). -/
theorem stepWith_of_row {table : List Row} {s : State} {row : Row} (hr : s.runState = .ready)
    (h : lookupRow table (s.mem.read s.pc) = some row) :
    stepWith table s = runRow row (s.mem.read s.pc) s.pc s.beginHandler := by
  simp only [stepWith, hr, h, State.beginHandler]

/-- LDA and STA on a mode without an address raise UnsupportedAddressingMode with that mode and their own mnemonic
(R119, R172). -/
theorem runRow_of_no_address {row : Row} {mn : Mnemonic} {s : State} (hmn : row.mnemonic = some mn)
    (hls : mn = .lda ∨ mn = .sta) (ha : effectiveAddress row.mode s = none) (op : Byte) (fetchPc : Address) :
    runRow row op fetchPc s = raiseUnsupportedMode row.mode mn op fetchPc s := by
  rcases hls with rfl | rfl <;> simp only [runRow, hmn, ha]

/-- A row without handler raises UnrecognizedOpcode (R173). -/
theorem runRow_of_no_handler {row : Row} (h : row.mnemonic = none) (op : Byte) (fetchPc : Address) (s : State) :
    runRow row op fetchPc s = raiseUnrecognizedOpcode op fetchPc s := by
  simp only [runRow, h]

/-- No step of this hardware raises UnsupportedAddressingMode: what it fetched completes, and where it fetched nothing it
raises the other fatal condition (R172). -/
theorem step_ne_unsupportedAddressingMode (s t : State) : step s ≠ .fault (.unsupportedAddressingMode t) := by
  intro h
  rcases step_cases s with ⟨-, hs⟩ | ⟨-, hs⟩ | ⟨-, e, -, hs⟩ | ⟨-, i, -, hs⟩
  · cases hs.symm.trans h
  · cases hs.symm.trans h
  · cases hs.symm.trans h
  · obtain ⟨u, hu⟩ := exec_isNext i s
    cases hu.symm.trans (hs.symm.trans h)

/-- Settles O15: the two kinds of malformed row end in the `raise` their lemmas name, and `step_ne_unsupportedAddressingMode`
is the last clause. -/
theorem malformedRowsRaiseTheirFaults : Obligations.MalformedRowsRaiseTheirFaults := by
  refine ⟨fun table s row mn hr hrow hmode hmn hls => ?_, fun table s row hr hrow hmn => ?_,
    step_ne_unsupportedAddressingMode⟩
  · have ha : effectiveAddress row.mode s.beginHandler = none := by rw [hmode]; rfl
    rw [stepWith_of_row hr hrow, runRow_of_no_address hmn hls ha, hmode]
    rcases hls with rfl | rfl <;> rfl
  · rw [stepWith_of_row hr hrow, runRow_of_no_handler hmn]
    exact ⟨_, rfl, rfl, rfl, rfl, rfl⟩

/-! ### The resolver -/

/-- Settles O44: for each mode the operand that `readOperand` forms at the pc, put into that form's sum, is the rule's
own expression. -/
theorem resolverComputesEveryMode : Obligations.ResolverComputesEveryMode :=
  fun _ => ⟨rfl, rfl, rfl, rfl, rfl, rfl, rfl, rfl, rfl, rfl⟩

/-- A byte extended to an address keeps its value. -/
theorem toNat_zext16 (b : Byte) : (zext16 b).toNat = b.toNat :=
  BitVec.toNat_setWidth_of_le (by decide)

/-- A byte extended to an address is in page zero (R54). -/
theorem zext16_lt_256 (b : Byte) : (zext16 b).toNat < 256 :=
  toNat_zext16 b ▸ b.isLt

/-- Settles O45: the resolver's address in each of the three modes is an 8-bit sum, extended. -/
theorem zeroPageModesStayInPageZero : Obligations.ZeroPageModesStayInPageZero := by
  intro m s hm
  obtain ⟨-, hz, hx, hy, -⟩ := resolverComputesEveryMode s
  rcases hm with rfl | rfl | rfl
  · exact ⟨_, hz, zext16_lt_256 _⟩
  · exact ⟨_, hx, zext16_lt_256 _⟩
  · exact ⟨_, hy, zext16_lt_256 _⟩

end Sys2Proof.Proofs

/-!
The load and store family (spec/42_load_store.md): what every LDA and every STA leaves unchanged, and each form whole, on
its operand and on the bytes in memory.
-/

namespace Sys2Proof.Proofs

open Sys2Proof.Machine Sys2Proof.Laws

/-! ### Frames -/

/-- What an LDA instruction does, once its byte is known (R130). -/
theorem exec_lda_of_value {i : Instr} {s : State} {v : Byte} (hm : i.mnemonic = .lda)
    (hv : operandValue i.operand s.beginHandler = some v) :
    exec i s = .next { s with
      a := v, p := setZN s.p v, pc := s.pc + BitVec.ofNat 16 i.length, pcBefore := s.pc + 1 } :=
  (exec_of_lda hm s).trans (loadAccumulator_of_value hv)

/-- Every LDA has a byte to load and leaves the state loaded with it (R130). -/
theorem exec_lda_next_inv {i : Instr} {s t : State} (hm : i.mnemonic = .lda) (h : exec i s = .next t) :
    ∃ v, t = { s with
      a := v, p := setZN s.p v, pc := s.pc + BitVec.ofNat 16 i.length, pcBefore := s.pc + 1 } := by
  obtain ⟨v, hv⟩ := operandValue_isSome (operand_ne_none (.inl hm)) s.beginHandler
  exact ⟨v, Host.Outcome.next.inj (h.symm.trans (exec_lda_of_value hm hv))⟩

/-- Every STA has an address and leaves the state with its cell written (R139). -/
theorem exec_sta_next_inv {i : Instr} {s t : State} (hm : i.mnemonic = .sta) (h : exec i s = .next t) :
    ∃ addr, operandAddress i.operand s.beginHandler = some addr ∧ t = { s with
      mem := s.mem.write addr s.a, pc := s.pc + BitVec.ofNat 16 i.length, pcBefore := s.pc + 1 } := by
  obtain ⟨addr, ha⟩ := operandAddress_isSome (operand_ne_none (.inr hm)) s.beginHandler
  exact ⟨addr, ha, Host.Outcome.next.inj (h.symm.trans (exec_sta_of_address hm ha))⟩

/-- Settles O22: a load writes A, P, the pc and the latch, and P by `SetZN`, which writes bits 1 and 7 alone. -/
theorem ldaFrame : Obligations.LdaFrame := by
  intro i s t hm h
  obtain ⟨v, rfl⟩ := exec_lda_next_inv hm h
  refine ⟨rfl, rfl, rfl, rfl, fun k h1 h7 => ?_, fun _ => rfl⟩
  exact (getLsbD_setZN s.p v k).trans ((if_neg h1).trans (if_neg h7))

/-- Settles O23: a store writes memory, the pc and the latch, and memory by one `Memory.write` at the operand's address. -/
theorem staFrame : Obligations.StaFrame := by
  intro i s t hm h
  obtain ⟨addr, ha, rfl⟩ := exec_sta_next_inv hm h
  refine ⟨rfl, rfl, rfl, rfl, rfl, rfl, addr, ha, ?_, fun b hb => ?_⟩
  · exact Memory.read_write_same s.mem addr s.a
  · exact Memory.read_write_ne s.mem hb s.a

/-! ### The instruction at the pc -/

/-- A Ready step executes the instruction whose opcode byte stands at the pc and whose operand is the one its mode reads
after that byte: the fetch finds its row, and mnemonic and operand determine it (R92 to R95). -/
theorem step_of_instr_at_pc {s : State} {i : Instr} (hr : s.runState = .ready) (hop : s.mem.read s.pc = i.opcode)
    (ho : readOperand i.operand.mode s.advancePastOpcode = i.operand) : step s = exec i s := by
  obtain ⟨hrow, -, -⟩ := tableRow i
  obtain ⟨j, hf, hjm, hjo, -, -⟩ := fetch_of_row (hop ▸ hrow)
  obtain rfl : j = i := instr_ext (Option.some.inj hjm) (hjo.trans ho)
  exact step_of_fetch hr hf

/-- The 16-bit operand after the opcode byte is put together from the second and third byte of the instruction (R71,
R72). -/
theorem read16_advancePastOpcode (s : State) :
    s.mem.read16 s.advancePastOpcode.pc = word16 (s.mem.read (s.pc + 2)) (s.mem.read (s.pc + 1)) := by
  simp [Memory.read16, inc16, BitVec.add_assoc]

/-! ### LDA, form by form

Each proof gives the form to `exec_lda_of_value`, and to `step_of_instr_at_pc` for the step. The form's encoding, its
mnemonic and the byte at its effective address are by definition the rule's own expressions; the operand in memory is so
for one byte, and is `read16_advancePastOpcode` for two. -/

/-- Settles O26: the byte a load takes of an Immediate operand is the operand itself (R110). -/
theorem ldaImmediateLoadsAccumulator : Obligations.LdaImmediateLoadsAccumulator :=
  ⟨fun _ _ => ⟨rfl, exec_lda_of_value rfl rfl⟩, fun _ hr hop =>
    (step_of_instr_at_pc (i := .ldaImmediate _) hr hop rfl).trans (exec_lda_of_value rfl rfl)⟩

/-- Settles O27: the address is the operand byte, extended (R111). -/
theorem ldaZeroPageLoadsAccumulator : Obligations.LdaZeroPageLoadsAccumulator :=
  ⟨fun _ _ => ⟨rfl, exec_lda_of_value rfl rfl⟩, fun _ hr hop =>
    (step_of_instr_at_pc (i := .ldaZeroPage _) hr hop rfl).trans (exec_lda_of_value rfl rfl)⟩

/-- Settles O28: the address is the 8-bit sum of operand byte and X, extended, so the sum wraps in page zero (R112). -/
theorem ldaZeroPageXLoadsAccumulator : Obligations.LdaZeroPageXLoadsAccumulator :=
  ⟨fun _ _ => ⟨rfl, exec_lda_of_value rfl rfl⟩, fun _ hr hop =>
    (step_of_instr_at_pc (i := .ldaZeroPageX _) hr hop rfl).trans (exec_lda_of_value rfl rfl)⟩

/-- Settles O29: the address is the operand (R114). -/
theorem ldaAbsoluteLoadsAccumulator : Obligations.LdaAbsoluteLoadsAccumulator :=
  ⟨fun _ _ => ⟨rfl, exec_lda_of_value rfl rfl⟩, fun s hr hop =>
    (step_of_instr_at_pc (i := .ldaAbsolute _) hr hop (congrArg Operand.absolute (read16_advancePastOpcode s))).trans
      (exec_lda_of_value rfl rfl)⟩

/-- Settles O30: the address is the 16-bit sum of operand and extended X (R115). -/
theorem ldaAbsoluteXLoadsAccumulator : Obligations.LdaAbsoluteXLoadsAccumulator :=
  ⟨fun _ _ => ⟨rfl, exec_lda_of_value rfl rfl⟩, fun s hr hop =>
    (step_of_instr_at_pc (i := .ldaAbsoluteX _) hr hop (congrArg Operand.absoluteX (read16_advancePastOpcode s))).trans
      (exec_lda_of_value rfl rfl)⟩

/-- Settles O31: the address is the 16-bit sum of operand and extended Y (R116). -/
theorem ldaAbsoluteYLoadsAccumulator : Obligations.LdaAbsoluteYLoadsAccumulator :=
  ⟨fun _ _ => ⟨rfl, exec_lda_of_value rfl rfl⟩, fun s hr hop =>
    (step_of_instr_at_pc (i := .ldaAbsoluteY _) hr hop (congrArg Operand.absoluteY (read16_advancePastOpcode s))).trans
      (exec_lda_of_value rfl rfl)⟩

/-- Settles O32: X is added to the pointer's address, and both bytes of the pointer stand in page zero (R117). -/
theorem ldaIndirectXLoadsAccumulator : Obligations.LdaIndirectXLoadsAccumulator :=
  ⟨fun _ _ => ⟨rfl, exec_lda_of_value rfl rfl⟩, fun _ hr hop =>
    (step_of_instr_at_pc (i := .ldaIndirectX _) hr hop rfl).trans (exec_lda_of_value rfl rfl)⟩

/-- Settles O33: the pointer's bytes stand in page zero, and Y is added to the pointer read (R118). -/
theorem ldaIndirectYLoadsAccumulator : Obligations.LdaIndirectYLoadsAccumulator :=
  ⟨fun _ _ => ⟨rfl, exec_lda_of_value rfl rfl⟩, fun _ hr hop =>
    (step_of_instr_at_pc (i := .ldaIndirectY _) hr hop rfl).trans (exec_lda_of_value rfl rfl)⟩

/-! ### STA, form by form

The same with `exec_sta_of_address`; the address is that of the memory before the write, since `operandAddress` is taken
of the state the handler starts from (R56). -/

/-- Settles O34: the address of O27 (R111). -/
theorem staZeroPageStoresAccumulator : Obligations.StaZeroPageStoresAccumulator :=
  ⟨fun _ _ => ⟨rfl, exec_sta_of_address rfl rfl⟩, fun _ hr hop =>
    (step_of_instr_at_pc (i := .staZeroPage _) hr hop rfl).trans (exec_sta_of_address rfl rfl)⟩

/-- Settles O35: the address of O28 (R112). -/
theorem staZeroPageXStoresAccumulator : Obligations.StaZeroPageXStoresAccumulator :=
  ⟨fun _ _ => ⟨rfl, exec_sta_of_address rfl rfl⟩, fun _ hr hop =>
    (step_of_instr_at_pc (i := .staZeroPageX _) hr hop rfl).trans (exec_sta_of_address rfl rfl)⟩

/-- Settles O36: the address of O29 (R114). -/
theorem staAbsoluteStoresAccumulator : Obligations.StaAbsoluteStoresAccumulator :=
  ⟨fun _ _ => ⟨rfl, exec_sta_of_address rfl rfl⟩, fun s hr hop =>
    (step_of_instr_at_pc (i := .staAbsolute _) hr hop (congrArg Operand.absolute (read16_advancePastOpcode s))).trans
      (exec_sta_of_address rfl rfl)⟩

/-- Settles O37: the address of O30 (R115). -/
theorem staAbsoluteXStoresAccumulator : Obligations.StaAbsoluteXStoresAccumulator :=
  ⟨fun _ _ => ⟨rfl, exec_sta_of_address rfl rfl⟩, fun s hr hop =>
    (step_of_instr_at_pc (i := .staAbsoluteX _) hr hop (congrArg Operand.absoluteX (read16_advancePastOpcode s))).trans
      (exec_sta_of_address rfl rfl)⟩

/-- Settles O38: the address of O31 (R116). -/
theorem staAbsoluteYStoresAccumulator : Obligations.StaAbsoluteYStoresAccumulator :=
  ⟨fun _ _ => ⟨rfl, exec_sta_of_address rfl rfl⟩, fun s hr hop =>
    (step_of_instr_at_pc (i := .staAbsoluteY _) hr hop (congrArg Operand.absoluteY (read16_advancePastOpcode s))).trans
      (exec_sta_of_address rfl rfl)⟩

/-- Settles O39: the pointer of O32, read before the write (R117). -/
theorem staIndirectXStoresAccumulator : Obligations.StaIndirectXStoresAccumulator :=
  ⟨fun _ _ => ⟨rfl, exec_sta_of_address rfl rfl⟩, fun _ hr hop =>
    (step_of_instr_at_pc (i := .staIndirectX _) hr hop rfl).trans (exec_sta_of_address rfl rfl)⟩

/-- Settles O40: the pointer of O33, read before the write (R118). -/
theorem staIndirectYStoresAccumulator : Obligations.StaIndirectYStoresAccumulator :=
  ⟨fun _ _ => ⟨rfl, exec_sta_of_address rfl rfl⟩, fun _ hr hop =>
    (step_of_instr_at_pc (i := .staIndirectY _) hr hop rfl).trans (exec_sta_of_address rfl rfl)⟩

end Sys2Proof.Proofs

/-!
The register family (spec/43_register_ops.md): TAX and INX whole, what both leave unchanged, and the operations of the ALU
as numbers.
-/

namespace Sys2Proof.Proofs

open Sys2Proof.Machine Sys2Proof.Laws

/-! ### TAX and INX -/

/-- TAX is the one instruction of its mnemonic (R74). -/
theorem mnemonic_eq_tax_iff (i : Instr) : i.mnemonic = .tax ↔ i = .tax := by
  cases i <;> simp [Instr.mnemonic]

/-- INX is the one instruction of its mnemonic (R74). -/
theorem mnemonic_eq_inx_iff (i : Instr) : i.mnemonic = .inx ↔ i = .inx := by
  cases i <;> simp [Instr.mnemonic]

/-- TAX and INX leave X loaded with a byte and P following it (R150, R151). -/
theorem exec_tax_inx_next_inv {i : Instr} {s t : State} (hm : i.mnemonic = .tax ∨ i.mnemonic = .inx)
    (h : exec i s = .next t) :
    ∃ v, t = { s with x := v, p := setZN s.p v, pc := s.pc + 1, pcBefore := s.pc + 1 } := by
  rcases hm with hm | hm
  · obtain rfl := (mnemonic_eq_tax_iff i).1 hm
    exact ⟨s.a, Host.Outcome.next.inj (h.symm.trans (exec_tax s))⟩
  · obtain rfl := (mnemonic_eq_inx_iff i).1 hm
    exact ⟨s.x + 1, Host.Outcome.next.inj (h.symm.trans (exec_inx s))⟩

/-- Settles O24: both write X, P, the pc and the latch, and P by `SetZN`, which writes bits 1 and 7 alone. -/
theorem taxInxFrame : Obligations.TaxInxFrame := by
  intro i s t hm h
  obtain ⟨v, rfl⟩ := exec_tax_inx_next_inv hm h
  refine ⟨rfl, rfl, rfl, rfl, fun k h1 h7 => ?_, fun _ => rfl⟩
  exact (getLsbD_setZN s.p v k).trans ((if_neg h1).trans (if_neg h7))

/-- Settles O41: `exec_tax`, and for the step `step_of_instr_at_pc`, since TAX has no operand to read. -/
theorem taxCopiesAccumulatorToX : Obligations.TaxCopiesAccumulatorToX :=
  ⟨rfl, exec_tax, fun s hr hop => (step_of_instr_at_pc (i := .tax) hr hop rfl).trans (exec_tax s)⟩

/-- Settles O42: `exec_inx`, and for the step `step_of_instr_at_pc`, since INX has no operand to read. -/
theorem inxIncrementsXModulo256 : Obligations.InxIncrementsXModulo256 :=
  ⟨rfl, exec_inx, fun s hr hop => (step_of_instr_at_pc (i := .inx) hr hop rfl).trans (exec_inx s)⟩

/-! ### The ALU -/

/-- `ADD16` adds the byte's own value, since extending it keeps it (R152). -/
theorem toNat_add16 (w : Address) (v : Byte) : (add16 w v).toNat = (w.toNat + v.toNat) % 65536 := by
  rw [add16, BitVec.toNat_add, toNat_zext16]

/-- `ADDLEN` wraps once, at the sum: reducing `length - 1` to 16 bits first makes no difference (R152). -/
theorem toNat_addLen (w : Address) {length : Nat} (h : 1 ≤ length) :
    (addLen w length).toNat = (w.toNat + length - 1) % 65536 := by
  rw [addLen, BitVec.toNat_add, BitVec.toNat_ofNat, Nat.add_mod_mod, Nat.add_sub_assoc h]

/-- Settles O46: `PASS8` is its byte, and the others are sums of bit vectors, which are the true sums modulo 2^8 or
2^16. -/
theorem aluOperationsWrapAtTheirWidth : Obligations.AluOperationsWrapAtTheirWidth := fun u v w _ hlo _ =>
  ⟨rfl, BitVec.toNat_add v 1, BitVec.toNat_add u v, toNat_add16 w v, BitVec.toNat_add w 1, toNat_addLen w hlo⟩

end Sys2Proof.Proofs

/-!
The system family (spec/44_system.md): BRK whole, and what it leaves unchanged.
-/

namespace Sys2Proof.Proofs

open Sys2Proof.Machine Sys2Proof.Laws

/-- BRK whole (R160). -/
theorem exec_brk (s : State) :
    exec .brk s = .next { s with pc := s.pc + 1, pcBefore := s.pc + 1, runState := .halted } := by
  simpa [Instr.mnemonic] using exec_cases .brk s

/-- Settles O25: `exec_brk` gives the one next state, the old one with the pc, the latch and the run state written. -/
theorem brkFrame : Obligations.BrkFrame := by
  intro i s t hm h
  obtain rfl := (mnemonic_eq_brk_iff i).1 hm
  obtain rfl := Host.Outcome.next.inj ((exec_brk s).symm.trans h)
  exact ⟨rfl, rfl, rfl, rfl, rfl, fun _ => rfl⟩

/-- Settles O43: `exec_brk`, and for the step `step_of_instr_at_pc`, since BRK has no operand to read. -/
theorem brkHaltsTheBlock : Obligations.BrkHaltsTheBlock :=
  ⟨rfl, exec_brk, fun s hr hop => (step_of_instr_at_pc (i := .brk) hr hop rfl).trans (exec_brk s)⟩

end Sys2Proof.Proofs

/-!
The exceptions family (spec/60_exceptions.md): when a step raises UnrecognizedOpcode, what a fatal condition of either kind
leaves, and that Faulted is left by power-on alone.
-/

namespace Sys2Proof.Proofs

open Sys2Proof.Machine Sys2Proof.Laws

/-! ### UnrecognizedOpcode -/

/-- The bytes without a row are those outside the table's opcode column (R76, R80). -/
theorem lookupOpcode_eq_none_iff (op : Byte) : lookupOpcode op = none ↔ op ∉ opcodeTable.map Row.opcode := by
  rw [← lookupOpcode_isSome_iff, Option.not_isSome_iff_eq_none]

/-- A step raises UnrecognizedOpcode only at an opcode byte without a row: with one the fetch finds an instruction, and
that completes (R171). -/
theorem lookupOpcode_of_step_unrecognizedOpcode {s t : State} (h : step s = .fault (.unrecognizedOpcode t)) :
    lookupOpcode (s.mem.read s.pc) = none := by
  rcases step_cases s with ⟨-, hs⟩ | ⟨-, hs⟩ | ⟨-, e, hf, -⟩ | ⟨-, i, -, hs⟩
  · cases hs.symm.trans h
  · cases hs.symm.trans h
  · cases hrow : lookupOpcode (s.mem.read s.pc) with
    | none => rfl
    | some row =>
      obtain ⟨i, hi, -⟩ := fetch_of_row hrow
      cases hi.symm.trans hf
  · obtain ⟨u, hu⟩ := exec_isNext i s
    cases hu.symm.trans (hs.symm.trans h)

/-- Settles O16: the bytes R76 lists are the table's opcode column, and UnrecognizedOpcode is the answer of a Ready step
exactly at a byte outside it. -/
theorem unrecognizedOpcodeFaultsPrecisely : Obligations.UnrecognizedOpcodeFaultsPrecisely := by
  refine ⟨fun s hr hop => ?_, fun s t h => ?_⟩
  · exact ⟨_, step_of_no_row hr ((lookupOpcode_eq_none_iff _).2 hop), rfl, rfl, rfl, rfl⟩
  · exact (lookupOpcode_eq_none_iff _).1 (lookupOpcode_of_step_unrecognizedOpcode h)

/-! ### Fault entry -/

/-- Actions 4 and 5 of a row complete, or raise one of the two fatal conditions on the state they were entered with: no
handler writes before it raises (R91, R176). -/
theorem runRow_cases (row : Row) (op : Byte) (fetchPc : Address) (s : State) :
    (∃ t, runRow row op fetchPc s = .next t) ∨
    runRow row op fetchPc s = raiseUnrecognizedOpcode op fetchPc s ∨
    ∃ mn, runRow row op fetchPc s = raiseUnsupportedMode row.mode mn op fetchPc s := by
  cases hm : row.mnemonic with
  | none => exact .inr (.inl (runRow_of_no_handler hm op fetchPc s))
  | some mn =>
    cases ha : effectiveAddress row.mode s <;> cases mn
    case none.lda => exact .inr (.inr ⟨.lda, runRow_of_no_address hm (.inl rfl) ha op fetchPc⟩)
    case none.sta => exact .inr (.inr ⟨.sta, runRow_of_no_address hm (.inr rfl) ha op fetchPc⟩)
    all_goals exact .inl ⟨_, by simp only [runRow, hm, ha]; rfl⟩

/-- Everything the spec's step algorithm can answer: there is no step, the step completes, or one of the two fatal
conditions is raised, with the opcode byte and its address, on a state that has nothing but the pc moved and, after a
successful lookup, the latch written (R91, R175, R176). -/
theorem stepWith_cases (table : List Row) (s : State) :
    stepWith table s = .fault .noStepHalted ∨ stepWith table s = .fault .noStepFaulted ∨
    (∃ t, stepWith table s = .next t) ∨
    (∃ v, stepWith table s =
      raiseUnrecognizedOpcode (s.mem.read s.pc) s.pc { s with pc := s.pc + 1, pcBefore := v }) ∨
    ∃ m mn v, stepWith table s =
      raiseUnsupportedMode m mn (s.mem.read s.pc) s.pc { s with pc := s.pc + 1, pcBefore := v } := by
  cases hr : s.runState with
  | halted => exact .inl (by simp only [stepWith, hr])
  | faulted => exact .inr (.inl (by simp only [stepWith, hr]))
  | ready =>
    cases hrow : lookupRow table (s.mem.read s.pc) with
    | none => exact .inr (.inr (.inr (.inl ⟨s.pcBefore, by simp only [stepWith, hr, hrow]; rfl⟩)))
    | some row =>
      rw [stepWith_of_row hr hrow]
      rcases runRow_cases row (s.mem.read s.pc) s.pc s.beginHandler with hnext | hop | ⟨mn, hmode⟩
      · exact .inr (.inr (.inl hnext))
      · exact .inr (.inr (.inr (.inl ⟨_, hop⟩)))
      · exact .inr (.inr (.inr (.inr ⟨_, mn, _, hmode⟩)))

/-- Settles O17: `stepWith_cases` gives the state a fatal condition is raised on, and raising it writes the run state and
the record alone. -/
theorem faultEntryIsPreciseForBothKinds : Obligations.FaultEntryIsPreciseForBothKinds := by
  intro table s t f h hl
  rcases stepWith_cases table s with hs | hs | ⟨u, hs⟩ | ⟨v, hs⟩ | ⟨m, mn, v, hs⟩
  · cases hs.symm.trans h; cases hl
  · cases hs.symm.trans h; cases hl
  · cases hs.symm.trans h
  · cases hs.symm.trans h; cases hl
    exact ⟨rfl, nofun, rfl, rfl, .inl ⟨rfl, rfl⟩⟩
  · cases hs.symm.trans h; cases hl
    exact ⟨rfl, nofun, rfl, rfl, .inr ⟨rfl, rfl⟩⟩

/-! ### Faulted -/

/-- A load that leaves a state writes memory alone (R204). -/
theorem loadAt_left_inv {loadAddress : Address} {program : List Byte} {s t : State}
    (h : stateLeft (loadAt loadAddress program s) = some t) : ∃ m, t = s.setMem m := by
  rcases loadAt_cases loadAddress program s with hl | hl <;> rw [hl] at h <;> cases h
  exact ⟨_, rfl⟩

/-- Settles O50: in Faulted a step and a reset are answered by name, and a load and a memory write change memory alone. -/
theorem faultedIsAbsorbing : Obligations.FaultedIsAbsorbing := by
  intro s hr
  obtain ⟨hstep, hreset⟩ := (stopsAreNamed s).2 hr
  have hnoStep : stateLeft (step s) = none := by rw [hstep]; rfl
  have hnoReset : stateLeft (hostOp .reset s) = none := by rw [hreset]; rfl
  refine ⟨hnoStep, hnoReset, ⟨State.powerOn, rfl, rfl⟩, fun op t hop h => ?_⟩
  cases op with
  | powerOn => exact absurd rfl hop
  | load program =>
    obtain ⟨m, rfl⟩ := loadAt_left_inv h
    exact ⟨hr, rfl⟩
  | reset => cases hnoReset.symm.trans h
  | step => cases hnoStep.symm.trans h
  | memoryWrite a v => cases h; exact ⟨hr, rfl⟩

end Sys2Proof.Proofs

/-!
The reset and hazards family (spec/70_reset_and_hazards.md): power-on, the reset request, and what a load leaves in memory,
alone and with a reset after it.
-/

namespace Sys2Proof.Proofs

open Sys2Proof.Machine Sys2Proof.Laws

/-! ### Power-on and reset -/

/-- Memory with nothing listed reads 0x00 everywhere (R17, R200). -/
theorem read_nil (addr : Address) : Memory.read [] addr = 0x00 := rfl

/-- Settles O1: power-on answers `State.powerOn` from every state; its memory lists no cell. -/
theorem powerOnLeavesEverythingZero : Obligations.PowerOnLeavesEverythingZero := fun _ =>
  ⟨State.powerOn, rfl, rfl, rfl, rfl, rfl, rfl, read_nil, rfl, rfl⟩

/-- Settles O2: the memory of `State.reset` lists no cell, so the vector reads 0x0000, and `resetRequest_powerOn` is its
last clause. -/
theorem resetStateHoldsTheResetValues : Obligations.ResetStateHoldsTheResetValues :=
  ⟨rfl, rfl, rfl, rfl, rfl, rfl, read_nil, rfl, rfl, resetRequest_powerOn⟩

/-- A reset outside Faulted is taken (R201). -/
theorem hostOp_reset_of_not_faulted {s : State} (hr : s.runState ≠ .faulted) :
    hostOp .reset s = .next { s with
      a := 0, x := 0, y := 0, p := 0, pc := s.mem.read16 Config.resetVector, runState := .ready } := by
  rcases resetRequest_cases s with ⟨hf, -⟩ | ⟨-, hs⟩
  · exact absurd hf hr
  · exact hs

/-- Settles O3: the vector is the 16-bit value at 0xFFFC, so its high byte is the one at 0xFFFD (R43). -/
theorem resetRequestClearsRegistersAndLoadsVector : Obligations.ResetRequestClearsRegistersAndLoadsVector :=
  fun _ hr => ⟨_, hostOp_reset_of_not_faulted hr, rfl⟩

/-! ### Load -/

/-- A 16-bit write leaves every cell but its two alone (R42, R44). -/
theorem read_write16_ne (m : Memory) {a b : Address} (hlow : b ≠ a) (hhigh : b ≠ a + 1) (v : Address) :
    (m.write16 a v).read b = m.read b :=
  (Memory.read_write_ne _ hhigh _).trans (Memory.read_write_ne m hlow _)

/-- The memory a load leaves: the image, and over it the vector (R204, R206). -/
def loadedMemory (loadAddress : Address) (program : List Byte) (m : Memory) : Memory :=
  (m.writeBytes loadAddress program).write16 Config.resetVector loadAddress

/-- The vector of loaded memory is the load address, whatever the image put there (R206). -/
theorem read16_loadedMemory (loadAddress : Address) (program : List Byte) (m : Memory) :
    (loadedMemory loadAddress program m).read16 Config.resetVector = loadAddress :=
  read16_write16 _ _ _

section
variable {loadAddress : Address} {program : List Byte}

/-- A load that fits is taken, and writes memory alone (R204). -/
theorem loadAt_of_fits (h : program.length ≤ 65536 - loadAddress.toNat) (s : State) :
    loadAt loadAddress program s = .next (s.setMem (loadedMemory loadAddress program s.mem)) :=
  if_pos h

/-- A load that does not fit is refused (R205). -/
theorem loadAt_of_oversize (h : 65536 - loadAddress.toNat < program.length) (s : State) :
    loadAt loadAddress program s = .refused .loadTooLarge :=
  if_neg (Nat.not_le.2 h)

/-- Away from the vector, loaded memory is the image where the image lies and the memory before elsewhere (R204). -/
theorem read_loadedMemory (h : program.length ≤ 65536 - loadAddress.toNat) (m : Memory) {addr : Address}
    (hlow : addr ≠ 0xFFFC) (hhigh : addr ≠ 0xFFFD) :
    (loadedMemory loadAddress program m).read addr =
      if loadAddress.toNat ≤ addr.toNat ∧ addr.toNat < loadAddress.toNat + program.length then
        program.getD (addr.toNat - loadAddress.toNat) 0
      else m.read addr := by
  -- The bound of R205 as a sum: the image does not pass the top of memory.
  have hfits : loadAddress.toNat + program.length ≤ 65536 := by omega
  exact (read_write16_ne _ hlow hhigh loadAddress).trans (Memory.read_writeBytes m loadAddress program hfits addr)

end

/-- Settles O47: the vector is written last, so it is read back whatever the image put there, and it touches no other
cell of the image. -/
theorem loadWritesTheImageThenTheVector : Obligations.LoadWritesTheImageThenTheVector := by
  refine ⟨fun loadAddress program s hfits => ?_, fun _ _ => rfl⟩
  exact ⟨_, loadAt_of_fits hfits s, rfl, read_write16_low _ _ _, read_write16_high _ _ _,
    fun _ hlow hhigh => read_loadedMemory hfits s.mem hlow hhigh⟩

/-- Settles O48: such a load fails the bound of R205, so `loadAt_of_oversize` answers it. -/
theorem oversizeLoadIsRefused : Obligations.OversizeLoadIsRefused := fun _ _ s h =>
  loadAt_of_oversize h s

/-- Settles O49: a load leaves the run state, so the reset is taken, and it reads back the vector the load wrote last. -/
theorem loadThenResetStartsTheProgram : Obligations.LoadThenResetStartsTheProgram := by
  intro loadAddress program s hr hfits
  have hreset := hostOp_reset_of_not_faulted (s := s.setMem (loadedMemory loadAddress program s.mem)) hr
  exact ⟨_, _, loadAt_of_fits hfits s, hreset, read16_loadedMemory _ _ _, rfl, rfl, rfl, rfl, rfl, rfl⟩

end Sys2Proof.Proofs
